-- ==== Sys2Proof/Word.lean ====
section
/-!
DEFINITION. The two word types of the block (spec/30_encoding.md R100, R101; spec/20_memory.md R70).
All quantities are unsigned and bit 0 is the least significant bit (spec/00_scope.md R11).
-/
namespace Sys2Proof

/-- A host command word HCMD, a command slot word or a response word RESP (R100). -/
abbrev Word := BitVec 32

/-- A byte of BUF, of a FIFO or of the bus (R70). -/
abbrev Byte := BitVec 8

end Sys2Proof
end

