-- ==== Sys2Proof/Syntax.lean ====
section
/-!
DEFINITION. The nine rows of spec/opcode_table.json, one constructor each (spec/30_encoding.md R101, R102,
R104, R105). Every operand has exactly the width of its field, so no term is out of range.
-/
namespace Sys2Proof

/-- A host operation (format HCMD) or a slot command (format SLOT). -/
inductive Instr where
  /-- WRREG, HOP 0x1: BLOCK, CHECKACK, DEVADDR, STARTREG, LEN (spec/43_host_operations.md R215). -/
  | wrreg (block checkAck : Bool) (devAddr : BitVec 7) (startReg len : Byte)
  /-- RDREG, HOP 0x2: CHECKACK, DEVADDR, STARTREG, LEN (spec/43_host_operations.md R216). -/
  | rdreg (checkAck : Bool) (devAddr : BitVec 7) (startReg len : Byte)
  /-- WAIT, HOP 0x3 (spec/43_host_operations.md R220). -/
  | wait
  /-- STB, HOP 0x4: IDX, VAL (spec/43_host_operations.md R226). -/
  | stb (idx val : Byte)
  /-- LDB, HOP 0x5: IDX (spec/43_host_operations.md R229). -/
  | ldb (idx : Byte)
  /-- START, OP 1 (spec/41_slot_commands.md R156). -/
  | start
  /-- WRITE, OP 2: ACK_CHECK (spec/41_slot_commands.md R158). -/
  | write (ackCheck : Bool)
  /-- READ, OP 3: ACK_VAL, true = not acknowledge (spec/41_slot_commands.md R160). -/
  | read (ackVal : Bool)
  /-- STOP, OP 4 (spec/41_slot_commands.md R161). -/
  | stop
  deriving DecidableEq, Repr

/-- A host operation: what HOST presents at the HCMD port (spec/00_scope.md R16). -/
def Instr.isHostOp : Instr → Bool
  | .wrreg _ _ _ _ _ => true
  | .rdreg _ _ _ _ => true
  | .wait => true
  | .stb _ _ => true
  | .ldb _ => true
  | .start => false
  | .write _ => false
  | .read _ => false
  | .stop => false

/-- A WRITE slot. -/
def Instr.isWrite : Instr → Bool
  | .wrreg _ _ _ _ _ => false
  | .rdreg _ _ _ _ => false
  | .wait => false
  | .stb _ _ => false
  | .ldb _ => false
  | .start => false
  | .write _ => true
  | .read _ => false
  | .stop => false

/-- A READ slot. -/
def Instr.isRead : Instr → Bool
  | .wrreg _ _ _ _ _ => false
  | .rdreg _ _ _ _ => false
  | .wait => false
  | .stb _ _ => false
  | .ldb _ => false
  | .start => false
  | .write _ => false
  | .read _ => true
  | .stop => false

end Sys2Proof
end

