-- ==== Sys2Proof/WellFormed.lean ====
section
/-!
DEFINITION. What is checked of a host program. A term of `Instr` cannot be out of range, since every operand
has its field's width; the ranges are checked where they can be broken, on the assembler's lines with plain
numbers (spec/30_encoding.md R118), and a host program holds host operations only (R119).
-/
namespace Sys2Proof

/-- One line of a host program as the assembler reads it, operands in the order of the call signatures,
each a plain number (R118). -/
inductive AsmLine where
  | wrreg (dev reg len block checkAck : Nat)
  | rdreg (dev reg len checkAck : Nat)
  | wait
  | stb (idx val : Nat)
  | ldb (idx : Nat)
  deriving DecidableEq, Repr

/-- The operand ranges of R118: `dev` 0 to 127, `reg`, `len`, `idx`, `val` 0 to 255, `block` and `checkAck` 0 or 1. -/
def AsmLine.wf : AsmLine → Bool
  | .wrreg dev reg len block ck =>
    decide (dev < 128) && decide (reg < 256) && decide (len < 256) && decide (block < 2) && decide (ck < 2)
  | .rdreg dev reg len ck => decide (dev < 128) && decide (reg < 256) && decide (len < 256) && decide (ck < 2)
  | .wait => true
  | .stb idx val => decide (idx < 256) && decide (val < 256)
  | .ldb idx => decide (idx < 256)

/-- A host program holds host operations only: slot commands never appear in it (R119). -/
def wfHostProgram (p : List Instr) : Bool := p.all Instr.isHostOp

end Sys2Proof
end

