-- ==== Sys2Proof/Decode.lean ====
section
/-!
DEFINITION. The decoder and the encoder (spec/30_encoding.md R101, R102, R104, R105, R115, R116), and the
assembler (R118). A decoder reads one 32-bit word and needs nothing else (R100).
-/
namespace Sys2Proof

/-- Why a word is no instruction. -/
inductive Reject where
  /-- HCMD with HOP 0x0 or 0x6 to 0xF (R115). -/
  | reservedHop (hop : BitVec 4)
  /-- HCMD with a listed HOP and a must-be-zero bit set (R115). -/
  | hcmdMustBeZero (hop : BitVec 4)
  /-- The slot word EMPTY, all zero (R105): not an executable command. -/
  | emptySlot
  /-- Slot word with OP 5 to 7 (R105, R116). -/
  | reservedOp (op : BitVec 3)
  /-- Slot word with OP 0 to 4 and a must-be-zero bit set (R116). -/
  | slotMustBeZero (op : BitVec 3)
  deriving DecidableEq, Repr

/-- One row of the opcode table: a word w selects it when `w & mask = pattern` (R102). -/
structure Row where
  mask    : Word
  pattern : Word
  deriving DecidableEq, Repr

def Row.selects (r : Row) (w : Word) : Bool := (w &&& r.mask) == r.pattern

def wrregRow : Row := ⟨0xF3800000#32, 0x10000000#32⟩
def rdregRow : Row := ⟨0xFB800000#32, 0x20000000#32⟩
def waitRow  : Row := ⟨0xFFFFFFFF#32, 0x30000000#32⟩
def stbRow   : Row := ⟨0xFFFF0000#32, 0x40000000#32⟩
def ldbRow   : Row := ⟨0xFFFF00FF#32, 0x50000000#32⟩
def startRow : Row := ⟨0xFFFFFFFF#32, 0x00000001#32⟩
def writeRow : Row := ⟨0xFFFFFFF7#32, 0x00000002#32⟩
def readRow  : Row := ⟨0xFFFFFFEF#32, 0x00000003#32⟩
def stopRow  : Row := ⟨0xFFFFFFFF#32, 0x00000004#32⟩

/-- The five rows of format HCMD (R102). -/
def hcmdRows : List Row := [wrregRow, rdregRow, waitRow, stbRow, ldbRow]

/-- The four executable rows of format SLOT (R105). -/
def slotRows : List Row := [startRow, writeRow, readRow, stopRow]

/-- The row of spec/opcode_table.json an instruction belongs to. -/
def Instr.row : Instr → Row
  | .wrreg _ _ _ _ _ => wrregRow
  | .rdreg _ _ _ _ => rdregRow
  | .wait => waitRow
  | .stb _ _ => stbRow
  | .ldb _ => ldbRow
  | .start => startRow
  | .write _ => writeRow
  | .read _ => readRow
  | .stop => stopRow

/-- `w[lo+n-1 : lo]` (spec/00_scope.md R11). -/
def field (w : Word) (lo n : Nat) : BitVec n := w.extractLsb' lo n

/-- The name of the reason an HCMD word selects no row (R115). -/
def hcmdReject (w : Word) : Reject :=
  if 1 ≤ (field w 28 4).toNat ∧ (field w 28 4).toNat ≤ 5 then .hcmdMustBeZero (field w 28 4)
  else .reservedHop (field w 28 4)

/-- The decoder of host command words (R101, R102, R115). -/
def decodeHcmd (w : Word) : Except Reject Instr :=
  if wrregRow.selects w then
    .ok (.wrreg (w.getLsbD 27) (w.getLsbD 26) (field w 16 7) (field w 8 8) (field w 0 8))
  else if rdregRow.selects w then
    .ok (.rdreg (w.getLsbD 26) (field w 16 7) (field w 8 8) (field w 0 8))
  else if waitRow.selects w then .ok .wait
  else if stbRow.selects w then .ok (.stb (field w 8 8) (field w 0 8))
  else if ldbRow.selects w then .ok (.ldb (field w 8 8))
  else .error (hcmdReject w)

/-- The name of the reason a slot word selects no executable row (R105, R116). -/
def slotReject (w : Word) : Reject :=
  if w = 0#32 then .emptySlot
  else if 5 ≤ (field w 0 3).toNat then .reservedOp (field w 0 3)
  else .slotMustBeZero (field w 0 3)

/-- The decoder of command slot words (R104, R105, R116). -/
def decodeSlot (w : Word) : Except Reject Instr :=
  if startRow.selects w then .ok .start
  else if writeRow.selects w then .ok (.write (w.getLsbD 3))
  else if readRow.selects w then .ok (.read (w.getLsbD 4))
  else if stopRow.selects w then .ok .stop
  else .error (slotReject w)

/-- A slot word decoded, where it is executable. -/
def slotInstr (w : Word) : Option Instr := (decodeSlot w).toOption

/-- Both formats: no word belongs to both, since every SLOT row has bits 31:28 zero and no HCMD row has. -/
def decode (w : Word) : Except Reject Instr :=
  match decodeHcmd w with
  | .ok i => .ok i
  | .error r =>
    match decodeSlot w with
    | .ok i => .ok i
    | .error r' => .error (if field w 28 4 = 0#4 then r' else r)

/-- The word that has the field f at bit `lo` and up and zero elsewhere (spec/00_scope.md R11). -/
def place {n : Nat} (f : BitVec n) (lo : Nat) : Word := f.setWidth 32 <<< lo

/-- The encoder: every field at its place (R101, R104). -/
def encode : Instr → Word
  | .wrreg block ck dev reg len =>
    place 1#4 28 ||| place (BitVec.ofBool block) 27 ||| place (BitVec.ofBool ck) 26 ||| place dev 16 ||| place reg 8
      ||| place len 0
  | .rdreg ck dev reg len =>
    place 2#4 28 ||| place (BitVec.ofBool ck) 26 ||| place dev 16 ||| place reg 8 ||| place len 0
  | .wait => place 3#4 28
  | .stb idx val => place 4#4 28 ||| place idx 8 ||| place val 0
  | .ldb idx => place 5#4 28 ||| place idx 8
  | .start => place 1#3 0
  | .write ackCheck => place (BitVec.ofBool ackCheck) 3 ||| place 2#3 0
  | .read ackVal => place (BitVec.ofBool ackVal) 4 ||| place 3#3 0
  | .stop => place 4#3 0

/-- The assembler (R118): an operand out of its range cannot be encoded and the line is rejected. -/
def assemble (l : AsmLine) : Option Instr :=
  if l.wf then
    match l with
    | .wrreg dev reg len block ck =>
      some (.wrreg (decide (block = 1)) (decide (ck = 1)) (BitVec.ofNat 7 dev) (BitVec.ofNat 8 reg) (BitVec.ofNat 8 len))
    | .rdreg dev reg len ck =>
      some (.rdreg (decide (ck = 1)) (BitVec.ofNat 7 dev) (BitVec.ofNat 8 reg) (BitVec.ofNat 8 len))
    | .wait => some .wait
    | .stb idx val => some (.stb (BitVec.ofNat 8 idx) (BitVec.ofNat 8 val))
    | .ldb idx => some (.ldb (BitVec.ofNat 8 idx))
  else none

/-- The instruction this decoder reads from a word numbered as spec/opcode_table.json numbers it: one 32-bit
word, bit 0 least significant; bits at and above `nbits` are 0. A word with a bit set above bit 31 is no word
of this block. -/
def decodeTableWord (nbits w : Nat) : Option Instr :=
  let v := w % 2 ^ nbits
  if v < 2 ^ 32 then (decode (BitVec.ofNat 32 v)).toOption else none

end Sys2Proof
end

