-- ==== Sys2Proof/Config.lean ====
section
/-!
DEFINITION. What is fixed for the block (spec/00_scope.md R7, R10), the parameters of one constructed
controller (R8, R9), ENV's answers (spec/41_slot_commands.md R150, R151), and the free values: constants
with no body, of which nothing can be proved but what holds for every value. Each of them is applied to the CTRL_INDEX
of the controller that draws it and to that controller's step count: every controller has a bus and a buffer of its own,
and two controllers share no value (spec/60_exceptions.md R270, notes/assumptions/3.md).
-/
namespace Sys2Proof

/-- NSLOTS, the capacity of the command buffer (R7). -/
abbrev Config.nSlots : Nat := 32

/-- BUFSIZE, the size of the data buffer in bytes (R10). -/
abbrev Config.bufSize : Nat := 256

/-- MAXLEN_WR = NSLOTS - 4 (R10, spec/40_command_builder.md R134). -/
def Config.maxLenWr : Nat := Config.nSlots - 4

/-- MAXLEN_RD = NSLOTS - 6 (R10, spec/40_command_builder.md R134). -/
def Config.maxLenRd : Nat := Config.nSlots - 6

/-- The parameters fixed when a controller is constructed and never changed afterwards (R8, R9).
No rule reads `timeoutBound`, `clkKhz`, `sdaPin` or `sclPin`; `ctrlIndex` is read only by the dispatch
table of spec/60_exceptions.md R270, and in the model also by the free values, which it tells apart by bus. -/
structure Params where
  /-- TXDEPTH, capacity of the transmit FIFO, 1 or more (R9). -/
  txDepth : Nat
  /-- RXDEPTH, capacity of the receive FIFO, 1 or more (R9). -/
  rxDepth : Nat
  /-- TIMEOUT_BOUND (R9). -/
  timeoutBound : Nat
  /-- CTRL_INDEX (R8). -/
  ctrlIndex : Nat
  /-- CLK_KHZ (R8). -/
  clkKhz : Nat
  /-- SDA_PIN (R8). -/
  sdaPin : Nat
  /-- SCL_PIN (R8). -/
  sclPin : Nat
  deriving DecidableEq, Repr

/-- The one constraint on the parameters: TXDEPTH and RXDEPTH are 1 or more (R9). -/
abbrev Params.wf (p : Params) : Prop := 1 ≤ p.txDepth ∧ 1 ≤ p.rxDepth

/-- DESIGN CHOICE (notes/assumptions/4.md), unsafe: the parameters `State.reset` carries. The spec leaves all of them open. -/
def Config.resetParams : Params :=
  ⟨1, 1, 0, 0, 0, 0, 0⟩

/-- The acknowledgment after a byte: `A` or `N` (spec/10_state.md R52). -/
inductive Ack where
  | ack
  | nack
  deriving DecidableEq, Repr, Inhabited

/-- The steps an agent can take next (spec/00_scope.md R5, R6; the three alternatives of SEQ are
spec/41_slot_commands.md R150). -/
inductive Move where
  /-- HOST: an issue step or the wake step (spec/43_host_operations.md R210). -/
  | host
  /-- IRQ: one invocation of the classifier (spec/42_interrupt_classifier.md R180). -/
  | irq
  /-- SEQ: the normal step of the slot at CMDPTR. -/
  | seqNormal
  /-- SEQ: the arbitration-loss step (R165). -/
  | seqArbLoss
  /-- SEQ: the hang step (R164). -/
  | seqHang
  deriving DecidableEq, Repr, Inhabited

/-- One input of the outside world, under no law (R151): which step is to be taken, whether a device
acknowledges, which byte a device sends. -/
structure Input where
  move : Move
  ack  : Ack
  byte : Byte
  deriving DecidableEq, Repr, Inhabited

/-- The kind k of a slot in the bus event `X(k)` (spec/10_state.md R52). -/
inductive SlotKind where
  | start
  | write
  | read
  | stop
  deriving DecidableEq, Repr, Inhabited

/-- FREE VALUE (notes/assumptions/3.md): the input from the bus of hardware unit u at step count n, where State lists none
(R151, U12). -/
opaque Config.freeInput (u n : Nat) : Input

/-- FREE VALUE (notes/assumptions/8.md): what a read of a byte of BUF that holds no value gives in the
controller of hardware unit u, at step count n and index i (spec/93_implementation_defined.md U1, U4). -/
opaque Config.freeByte (u n : Nat) (i : Byte) : Byte

/-- FREE VALUE (notes/assumptions/14.md): a byte of the TX stream outside its stated range
(spec/40_command_builder.md R136), in the controller of hardware unit u at step count n. -/
opaque Config.freeTxByte (u n : Nat) (i : BitVec 5) : Byte

/-- FREE VALUE (notes/assumptions/13.md): the kind in `X(k)` where the word at CMDPTR is no executable slot
(spec/30_encoding.md R116, spec/41_slot_commands.md R164), in the controller of hardware unit u at step count n. -/
opaque Config.freeSlotKind (u n : Nat) : SlotKind

end Sys2Proof
end

