-- ==== Sys2Proof/Machine/State.lean ====
section
/-!
DEFINITION. The state of the machine as plain data (spec/10_state.md, spec/00_scope.md R8, R9), the reasons a
step can stop, and the state after reset (spec/70_reset_and_hazards.md R290).
-/
namespace Sys2Proof.Machine

/-- The Transaction State (R24). Values 6 and 7 of its 3 bits are never written and do not exist here
(notes/assumptions/10.md). -/
inductive TState where
  | idle
  | inProgress
  | completedOk
  | completedNack
  | completedTimeout
  | completedArbLost
  deriving DecidableEq, Repr

/-- OPR.KIND: 0 = write, 1 = read (R45). -/
inductive Kind where
  | write
  | read
  deriving DecidableEq, Repr

/-- The operand latch OPR (R45). -/
structure OprLatch where
  kind     : Kind
  devAddr  : BitVec 7
  startReg : Byte
  len      : Byte
  checkAck : Bool
  deriving DecidableEq, Repr

/-- The cause c in the bus event `REL(c)` (R52). -/
inductive AbortCause where
  | nack
  | timeout
  | arbLost
  deriving DecidableEq, Repr

/-- The bus events of TRACE (R52). -/
inductive BusEvent where
  /-- `S`, start condition on a free bus. -/
  | start
  /-- `Sr`, repeated start. -/
  | restart
  /-- `W(b, a)`, the master transmitted b and a slave answered a. -/
  | written (b : Byte) (a : Ack)
  /-- `R(b, a)`, the master received b and answered a. -/
  | received (b : Byte) (a : Ack)
  /-- `P`, stop condition. -/
  | stop
  /-- `REL(c)`, the block released the bus lines without a stop condition. -/
  | released (c : AbortCause)
  /-- `X(k)`, a slot of kind k did not complete. -/
  | notCompleted (k : SlotKind)
  deriving DecidableEq, Repr

/-- BUF: the bytes that hold a value, as (address, byte) pairs, addresses strictly rising and below 256. An
unlisted address holds no value (R49, notes/assumptions/8.md). -/
structure Memory where
  cells : List Host.Cell
  deriving DecidableEq, Repr

/-- Everything the specification gives the machine, the parameters of the run, and the model's own `inputs`
and `draws`. -/
structure State where
  /-- TSTATE (R24). -/
  tstate : TState
  /-- SIG, the Completion Signal (R28). -/
  sig : Bool
  /-- INT_ENA (R30). -/
  intEna : BitVec 6
  /-- INT_PEND (R31). -/
  intPend : BitVec 6
  /-- CMD[0..31] (R34). -/
  cmd : Vector Word 32
  /-- CMDLEN (R35). -/
  cmdLen : BitVec 6
  /-- CMDPTR (R36). -/
  cmdPtr : BitVec 6
  /-- SEQ_RUN (R37). -/
  seqRun : Bool
  /-- BUSOWN (R38). -/
  busOwn : Bool
  /-- TXFIFO, head first (R40). -/
  txFifo : List Byte
  /-- RXFIFO, head first (R41). -/
  rxFifo : List Byte
  /-- TXIDX (R42). -/
  txIdx : BitVec 5
  /-- TXLEN (R42). -/
  txLen : BitVec 5
  /-- RXIDX (R43). -/
  rxIdx : BitVec 5
  /-- OPR (R45). -/
  opr : OprLatch
  /-- RESP (R47). -/
  resp : Word
  /-- BUF (R49). -/
  buf : Memory
  /-- HWAIT (R50). -/
  hwait : Bool
  /-- HPC (R51). -/
  hpc : Nat
  /-- TRACE, oldest first (R52). -/
  trace : List BusEvent
  /-- The parameters of the constructed controller (spec/00_scope.md R8, R9); no step writes them. -/
  params : Params
  /-- The host program, a parameter of the run (R21); no step writes it. -/
  prog : List Word
  /-- The model's own: the inputs of the outside world that are already fixed, next first
  (notes/assumptions/1.md); past its end they are free values. -/
  inputs : List Input
  /-- The model's own: how many steps this controller took, the counter the free values are applied to beside CTRL_INDEX
  (notes/assumptions/3.md). -/
  draws : Nat
  deriving DecidableEq, Repr

/-- Why the machine stops. The block itself has no trap (spec/60_exceptions.md R250, R254). -/
inductive Fault where
  /-- Raised by `step` in a final state (spec/70_reset_and_hazards.md R312): the host program is exhausted, HOST is
  not suspended and no transaction is in progress. Safe: no agent of the hardware has a step either. -/
  | endOfRun
  /-- Raised by `step` in any other state in which no agent has an enabled step (spec/00_scope.md R13).
  Safe: no agent of the hardware has a step either; no state that satisfies the invariant is one. -/
  | stuck
  deriving DecidableEq, Repr

/-- Why the model gives no meaning. -/
inductive Refusal where
  /-- Raised by `exec` for an instruction with no meaning. Safe. -/
  | notModelled (mnemonic : String)
  /-- Raised by `step` when HOST issues a reserved HCMD word (spec/30_encoding.md R115): "A model refuses such a
  word". Safe. -/
  | reservedHostWord (w : Word)
  deriving DecidableEq, Repr

/-- The reset state (spec/70_reset_and_hazards.md R290) of a controller constructed with parameters p, with host
program prog. CMD, OPR and RESP's DATA and CODE are unspecified there and zero here: DESIGN CHOICE, unsafe
(notes/assumptions/5.md, 6.md, 7.md). -/
def State.resetWith (p : Params) (prog : List Word) : State where
  tstate := .idle
  sig := false
  intEna := 0#6
  intPend := 0#6
  cmd := Vector.replicate 32 0#32
  cmdLen := 0#6
  cmdPtr := 0#6
  seqRun := false
  busOwn := false
  txFifo := []
  rxFifo := []
  txIdx := 0#5
  txLen := 0#5
  rxIdx := 0#5
  opr := ⟨.write, 0#7, 0#8, 0#8, false⟩
  resp := 0#32
  buf := ⟨[]⟩
  hwait := false
  hpc := 0
  trace := []
  params := p
  prog := prog
  inputs := []
  draws := 0

/-- The state after reset, with no host program placed (notes/assumptions/4.md, 16.md). -/
def State.reset : State := State.resetWith Config.resetParams []

end Sys2Proof.Machine
end

