-- ==== Sys2Proof/Machine/Operands.lean ====
section
/-!
DEFINITION. The data buffer BUF (spec/10_state.md R49), the values assembled from operands: the address byte
(spec/30_encoding.md R113), the TX stream (spec/40_command_builder.md R136), and the length check (R134).
-/
namespace Sys2Proof.Machine

/-- The byte listed at an address, if there is one. -/
def lookupCell : List Host.Cell → Nat → Option Byte
  | [], _ => none
  | (a, b) :: cs, k => if a = k then some b else lookupCell cs k

/-- A listed byte put at an address, keeping the addresses rising. -/
def insertCell : List Host.Cell → Nat → Byte → List Host.Cell
  | [], k, v => [(k, v)]
  | (a, b) :: cs, k, v =>
    if k < a then (k, v) :: (a, b) :: cs
    else if k = a then (k, v) :: cs
    else (a, b) :: insertCell cs k v

/-- The byte BUF[i] where it holds a value; `none` where it holds none (R49). -/
def bufGet (m : Memory) (i : Byte) : Option Byte := lookupCell m.cells i.toNat

/-- `BUF[i] <- v` (spec/00_scope.md R12). -/
def bufSet (m : Memory) (i v : Byte) : Memory := ⟨insertCell m.cells i.toNat v⟩

/-- BUF[0 .. n-1] hold no value any more (spec/93_implementation_defined.md U1). -/
def bufForget (m : Memory) (n : Nat) : Memory := ⟨m.cells.filter (fun c => decide (n ≤ c.1))⟩

/-- Addresses strictly rising. -/
def risingCells : List Host.Cell → Bool
  | [] => true
  | [_] => true
  | c :: d :: cs => decide (c.1 < d.1) && risingCells (d :: cs)

/-- The canonical form of BUF: addresses strictly rising and below BUFSIZE. An unlisted address reads as no value,
so no entry can equal it. -/
def Memory.wf (m : Memory) : Bool := risingCells m.cells && m.cells.all (fun c => decide (c.1 < Config.bufSize))

/-- A read of BUF[i]: the byte it holds, and a free value where it holds none, another one at every step and in every controller
(spec/93_implementation_defined.md U1, U4; notes/assumptions/8.md). -/
def readBuf (s : State) (i : Byte) : Byte := (bufGet s.buf i).getD (Config.freeByte s.params.ctrlIndex s.draws i)

/-- A BUF index kept in a 5-bit counter (RXIDX, TXIDX), as an index of BUF. -/
def bufIndex (i : BitVec 5) : Byte := i.setWidth 8

/-- The address byte: DEVADDR with the direction bit below it, 1 = read (spec/30_encoding.md R113). -/
def addrByte (dev : BitVec 7) (rd : Bool) : Byte := (dev.setWidth 8 <<< 1) ||| (BitVec.ofBool rd).setWidth 8

/-- `txbyte(i)` of a write (spec/40_command_builder.md R136). -/
def txByteWrite (s : State) (i : BitVec 5) : Byte :=
  if i = 0#5 then addrByte s.opr.devAddr false
  else if i = 1#5 then s.opr.startReg
  else readBuf s (bufIndex (i - 2#5))

/-- `txbyte(i)` of a read (R136); the stream has three bytes, and no rule gives a fourth
(notes/assumptions/14.md). -/
def txByteRead (s : State) (i : BitVec 5) : Byte :=
  if i = 0#5 then addrByte s.opr.devAddr false
  else if i = 1#5 then s.opr.startReg
  else if i = 2#5 then addrByte s.opr.devAddr true
  else Config.freeTxByte s.params.ctrlIndex s.draws i

/-- `txbyte(i)` (R136). -/
def txByte (s : State) (i : BitVec 5) : Byte :=
  match s.opr.kind with
  | .write => txByteWrite s i
  | .read => txByteRead s i

/-- The largest LEN of a request (spec/00_scope.md R10). -/
def maxLen : Kind → Nat
  | .write => Config.maxLenWr
  | .read => Config.maxLenRd

/-- The length check, made on natural numbers (spec/40_command_builder.md R134). -/
def validLen (k : Kind) (len : Byte) : Bool := decide (1 ≤ len.toNat) && decide (len.toNat ≤ maxLen k)

/-- What the master answers after a received byte: ACK_VAL 0 = acknowledge, 1 = not acknowledge
(spec/30_encoding.md R104). -/
def masterAck (ackVal : Bool) : Ack := if ackVal then .nack else .ack

/-- The kind k of a slot command in `X(k)` (spec/10_state.md R52); a host operation has none. -/
def slotKindOf : Instr → Option SlotKind
  | .wrreg _ _ _ _ _ => none
  | .rdreg _ _ _ _ => none
  | .wait => none
  | .stb _ _ => none
  | .ldb _ => none
  | .start => some .start
  | .write _ => some .write
  | .read _ => some .read
  | .stop => some .stop

end Sys2Proof.Machine
end

