-- ==== Sys2Proof/Machine/Builder.lean ====
section
/-!
DEFINITION. The command builder (spec/40_command_builder.md R131, R132): pure functions from operands to the
list of slot words. The TX stream beside them is `txByte`.
-/
namespace Sys2Proof.Machine

/-- The slot commands of `build_write`, in order (R131). -/
def buildWriteSlots (len : Nat) (ck : Bool) : List Instr :=
  [.start] ++ [.write ck] ++ [.write ck] ++ List.replicate len (.write ck) ++ [.stop]

/-- The slot commands of `build_read`, in order (R132). -/
def buildReadSlots (len : Nat) (ck : Bool) : List Instr :=
  [.start] ++ [.write ck] ++ [.write ck] ++ [.start] ++ [.write ck] ++ List.replicate (len - 1) (.read false)
    ++ [.read true] ++ [.stop]

/-- The slot commands of a request. -/
def buildSlots (k : Kind) (len : Nat) (ck : Bool) : List Instr :=
  match k with
  | .write => buildWriteSlots len ck
  | .read => buildReadSlots len ck

/-- The slot words of a request, what CMD is to hold. -/
def buildWords (k : Kind) (len : Nat) (ck : Bool) : List Word := (buildSlots k len ck).map encode

/-- `size`, the number of slots: len + 4 for a write, len + 6 for a read (R133). -/
def buildSize (k : Kind) (len : Nat) : Nat :=
  match k with
  | .write => len + 4
  | .read => len + 6

/-- `txlen`: len + 2 for a write, 3 for a read (R131, R132). -/
def buildTxLen (k : Kind) (len : Nat) : Nat :=
  match k with
  | .write => len + 2
  | .read => 3

/-- `for i in 0 .. size-1: CMD[i] <- slots[i]`, from slot i on (spec/43_host_operations.md R214). -/
def writeSlots (cmd : Vector Word 32) (i : Nat) : List Word → Vector Word 32
  | [] => cmd
  | w :: ws => writeSlots (cmd.setIfInBounds i w) (i + 1) ws

end Sys2Proof.Machine
end

