-- ==== Sys2Proof/Machine/Flags.lean ====
section
/-!
DEFINITION. The interrupt source bits (spec/30_encoding.md R112), the derived flags (spec/10_state.md R29, R32),
the response word (R108) and the result encoder (spec/43_host_operations.md R211). The block has no arithmetic
condition code (R29).
-/
namespace Sys2Proof.Machine

/-- The six interrupt sources (R112). -/
inductive Event where
  | txe
  | rxf
  | ackErr
  | timeout
  | done
  | arbLost
  deriving DecidableEq, Repr

/-- The source's bit position in INT_ENA and INT_PEND (R112). -/
def eventBit : Event → Nat
  | .txe => 0
  | .rxf => 1
  | .ackErr => 2
  | .timeout => 3
  | .done => 4
  | .arbLost => 5

/-- The source's mask (R112). -/
def eventMask : Event → BitVec 6
  | .txe => 0x01#6
  | .rxf => 0x02#6
  | .ackErr => 0x04#6
  | .timeout => 0x08#6
  | .done => 0x10#6
  | .arbLost => 0x20#6

/-- All six sources (R112). -/
def allEvents : BitVec 6 := 0x3F#6

/-- BUSY: TSTATE = InProgress (R29). -/
def busy (s : State) : Bool := s.tstate == .inProgress

/-- The pending and armed sources, INT_PEND & INT_ENA (spec/42_interrupt_classifier.md R184). -/
def armedPending (s : State) : BitVec 6 := s.intPend &&& s.intEna

/-- The interrupt request IRQ (spec/10_state.md R32). -/
def irqLine (s : State) : Bool := armedPending s != 0#6

/-- TXE_LEVEL (R29). -/
def txeLevel (s : State) : Bool := s.txFifo.length == 0

/-- RXF_LEVEL (R29). -/
def rxfLevel (s : State) : Bool := s.rxFifo.length == s.params.rxDepth

/-- `raise EVENT`: the pending bit is set and nothing else happens (spec/00_scope.md R12). -/
def raiseEvent (e : Event) (s : State) : State := { s with intPend := s.intPend ||| eventMask e }

/-- The result codes (spec/30_encoding.md R109, R110). -/
inductive Code where
  | ok
  | nack
  | timeout
  | arbitrationLost
  | noTransaction
  | invalidArgument
  | inProgress
  deriving DecidableEq, Repr

/-- The number of a result code (R109, R110). -/
def codeNum : Code → BitVec 3
  | .ok => 0#3
  | .nack => 1#3
  | .timeout => 2#3
  | .arbitrationLost => 3#3
  | .noTransaction => 4#3
  | .invalidArgument => 5#3
  | .inProgress => 6#3

/-- The number of a Transaction State (spec/10_state.md R24, spec/30_encoding.md R111). -/
def tstateNum : TState → BitVec 3
  | .idle => 0#3
  | .inProgress => 1#3
  | .completedOk => 2#3
  | .completedNack => 3#3
  | .completedTimeout => 4#3
  | .completedArbLost => 5#3

/-- A Transaction State in which the transaction has ended (spec/00_scope.md R16). -/
def completed : TState → Bool
  | .idle => false
  | .inProgress => false
  | .completedOk => true
  | .completedNack => true
  | .completedTimeout => true
  | .completedArbLost => true

/-- The result encoder (spec/43_host_operations.md R211). -/
def resultCode : TState → Code
  | .idle => .noTransaction
  | .inProgress => .inProgress
  | .completedOk => .ok
  | .completedNack => .nack
  | .completedTimeout => .timeout
  | .completedArbLost => .arbitrationLost

/-- The response word with VALID = 1 (spec/30_encoding.md R108). -/
def respWord (c : Code) (d : Byte) : Word := place 1#1 31 ||| place d 8 ||| place (codeNum c) 0

/-- RESP.VALID (R108). -/
def respValid (w : Word) : Bool := w.getLsbD 31

/-- RESP.DATA (R108). -/
def respData (w : Word) : Byte := w.extractLsb' 8 8

/-- RESP.CODE (R108). -/
def respCode (w : Word) : BitVec 3 := w.extractLsb' 0 3

/-- Bits 30:16 and 7:3 of RESP are always 0 (R108). -/
def respWellFormed (w : Word) : Bool := (w &&& 0x7FFF00F8#32) == 0#32

end Sys2Proof.Machine
end

