-- ==== Sys2Proof/Machine/Ops.lean ====
section
/-!
DEFINITION. The named operations the steps share: responding, the bus history, fetching a slot, the feed and
the drain (spec/42_interrupt_classifier.md R191, R192), the arm step (spec/43_host_operations.md R214), and taking
an interrupt: the classifier (spec/42_interrupt_classifier.md R184 to R190, spec/60_exceptions.md R264, R267).
-/
namespace Sys2Proof.Machine

/-- A step that completes with a next state. -/
abbrev StepResult := Host.Outcome State Fault Refusal

/-- `respond(c, d)` (spec/00_scope.md R12). -/
def respond (c : Code) (d : Byte) (s : State) : State := { s with resp := respWord c d }

/-- A completed host operation: it writes RESP once and HPC advances by 1 (spec/10_state.md R47, R51). -/
def finishHostOp (c : Code) (d : Byte) (s : State) : State :=
  { respond c d s with hpc := s.hpc + 1 }

/-- `emit(e)` (spec/00_scope.md R12). -/
def emit (e : BusEvent) (s : State) : State := { s with trace := s.trace ++ [e] }

/-- The input this step reads, from the controller's own bus (spec/41_slot_commands.md R151, spec/60_exceptions.md R270,
notes/assumptions/1.md, 3.md). -/
def currentInput (s : State) : Input := s.inputs.head?.getD (Config.freeInput s.params.ctrlIndex s.draws)

/-- The step has read its input (notes/assumptions/1.md). -/
def consumeInput (s : State) : State := { s with inputs := s.inputs.tail, draws := s.draws + 1 }

/-- The slot word SEQ fetches: CMD[CMDPTR], where CMDPTR < CMDLEN (spec/41_slot_commands.md R150,
spec/10_state.md R34). -/
def fetchSlot (s : State) : Option Word :=
  if s.cmdPtr < s.cmdLen then s.cmd[s.cmdPtr.toNat]? else none

/-- The slot command SEQ is at, where the word is executable (spec/41_slot_commands.md R150,
spec/30_encoding.md R116). -/
def currentSlot (s : State) : Option Instr := (fetchSlot s).bind slotInstr

/-- The hold condition of a slot command's normal step (spec/41_slot_commands.md R158, R160; none for START and
STOP, R156, R161). -/
def slotHeld (i : Instr) (s : State) : Bool :=
  match i with
  | .wrreg _ _ _ _ _ => false
  | .rdreg _ _ _ _ => false
  | .wait => false
  | .stb _ _ => false
  | .ldb _ => false
  | .start => false
  | .write _ => txeLevel s
  | .read _ => rxfLevel s
  | .stop => false

/-- The tail of every normal step that completes its slot (R152). -/
def advance (s : State) : State :=
  let p := s.cmdPtr + 1#6
  if p = s.cmdLen then { raiseEvent .done s with cmdPtr := p, seqRun := false }
  else { s with cmdPtr := p }

/-- SEQ halts at the slot it is at and raises a terminal event (R158, R164, R165). -/
def haltWith (e : Event) (s : State) : State := { raiseEvent e s with seqRun := false }

/-- The kind k of the slot at CMDPTR in `X(k)`; a free value where there is no executable slot
(notes/assumptions/13.md). -/
def currentSlotKind (s : State) : SlotKind :=
  ((currentSlot s).bind slotKindOf).getD (Config.freeSlotKind s.params.ctrlIndex s.draws)

/-- The loop of the feed (R192) on the FIFO q and the index i; `fuel` bounds the iterations. -/
def feedLoop (depth : Nat) (txLen : BitVec 5) (byteAt : BitVec 5 → Byte) :
    Nat → List Byte → BitVec 5 → List Byte × BitVec 5
  | 0, q, i => (q, i)
  | fuel + 1, q, i =>
    if q.length < depth ∧ i < txLen then feedLoop depth txLen byteAt fuel (q ++ [byteAt i]) (i + 1#5)
    else (q, i)

/-- What `feed` leaves in TXFIFO and TXIDX. At most TXLEN - TXIDX bytes can be pushed. -/
def feedResult (s : State) : List Byte × BitVec 5 :=
  feedLoop s.params.txDepth s.txLen (txByte s) (s.txLen.toNat - s.txIdx.toNat) s.txFifo s.txIdx

/-- `feed`: push TX stream bytes until the FIFO is full or the stream is exhausted (R192). -/
def feed (s : State) : State := { s with txFifo := (feedResult s).1, txIdx := (feedResult s).2 }

/-- The loop of the drain (R191): the bytes of RXFIFO, oldest first, go to BUF[RXIDX], BUF[RXIDX + 1], ... -/
def drainLoop : List Byte → BitVec 5 → Memory → Memory × BitVec 5
  | [], i, m => (m, i)
  | b :: q, i, m => drainLoop q (i + 1#5) (bufSet m (bufIndex i) b)

/-- `drain`: move every byte in RXFIFO to the destination buffer (R191). -/
def drain (s : State) : State :=
  { s with
    buf := (drainLoop s.rxFifo s.rxIdx s.buf).1
    rxIdx := (drainLoop s.rxFifo s.rxIdx s.buf).2
    rxFifo := [] }

/-- The arm step up to and with the prefill: everything the transaction needs is in place before the hardware
is armed (spec/43_host_operations.md R214). -/
def loadTransaction (k : Kind) (dev : BitVec 7) (reg len : Byte) (ck : Bool) (s : State) : State :=
  feed { s with
    opr := ⟨k, dev, reg, len, ck⟩
    cmd := writeSlots s.cmd 0 (buildWords k len.toNat ck)
    cmdLen := BitVec.ofNat 6 (buildSize k len.toNat)
    cmdPtr := 0#6
    txLen := BitVec.ofNat 5 (buildTxLen k len.toNat)
    txIdx := 0#5
    rxIdx := 0#5
    txFifo := []
    rxFifo := [] }

/-- The arm step (R214). BUSOWN and TRACE are not written. -/
def arm (k : Kind) (dev : BitVec 7) (reg len : Byte) (ck : Bool) (s : State) : State :=
  { loadTransaction k dev reg len ck s with
    sig := false
    intPend := 0#6
    intEna := allEvents
    tstate := .inProgress
    seqRun := true }

/-- What every terminal step writes (spec/42_interrupt_classifier.md R186, R188): the Completed value, the interrupt
registers cleared, the Completion Signal released. -/
def endTransaction (t : TState) (s : State) : State :=
  { s with tstate := t, intEna := 0#6, intPend := 0#6, sig := true }

/-- The terminal state an abort records (R186). -/
def abortState : AbortCause → TState
  | .arbLost => .completedArbLost
  | .timeout => .completedTimeout
  | .nack => .completedNack

/-- BUF after an abort (R196, spec/93_implementation_defined.md U1): after a read that ends Timeout or
ArbitrationLost the destination holds no value; otherwise BUF is as it was (notes/assumptions/9.md). -/
def bufAfterAbort (c : AbortCause) (s : State) : Memory :=
  match c, s.opr.kind with
  | .nack, _ => s.buf
  | .timeout, .write => s.buf
  | .arbLost, .write => s.buf
  | .timeout, .read => bufForget s.buf s.opr.len.toNat
  | .arbLost, .read => bufForget s.buf s.opr.len.toNat

/-- `if BUSOWN = 1 then emit(REL(c'))` (R186). -/
def releaseBus (c : AbortCause) (s : State) : State :=
  { (if s.busOwn then emit (.released c) s else s) with busOwn := false }

/-- `abort(c)` (R186). -/
def abort (c : AbortCause) (s : State) : State :=
  endTransaction (abortState c)
    { releaseBus c s with seqRun := false, cmdPtr := 0#6, txFifo := [], rxFifo := [], buf := bufAfterAbort c s }

/-- `complete` (R188). -/
def complete (s : State) : State := endTransaction .completedOk (drain s)

/-- The first half of `service`: RXF in the snapshot p is served and its bit cleared (R190). -/
def serviceRx (p : BitVec 6) (s : State) : State :=
  if p.getLsbD (eventBit .rxf) then { drain s with intPend := s.intPend &&& ~~~(eventMask .rxf) } else s

/-- The second half of `service`: TXE in the snapshot p is served and its bit cleared (R190). -/
def serviceTx (p : BitVec 6) (s : State) : State :=
  if p.getLsbD (eventBit .txe) then { feed s with intPend := s.intPend &&& ~~~(eventMask .txe) } else s

/-- `service` on the snapshot p (R190). -/
def service (p : BitVec 6) (s : State) : State := serviceTx p (serviceRx p s)

/-- The three actions of the classifier (R184). -/
inductive Action where
  | abort (c : AbortCause)
  | complete
  | service
  deriving DecidableEq, Repr

/-- The classification of a snapshot, by fixed priority (R184). -/
def classify (p : BitVec 6) : Action :=
  if p.getLsbD (eventBit .arbLost) then .abort .arbLost
  else if p.getLsbD (eventBit .timeout) then .abort .timeout
  else if p.getLsbD (eventBit .ackErr) then .abort .nack
  else if p.getLsbD (eventBit .done) then .complete
  else .service

/-- TAKING AN INTERRUPT: one whole invocation of the classifier on the snapshot INT_PEND & INT_ENA (R184). Nothing
is saved at entry and nothing restored at return, which is the end of the action's last write
(spec/60_exceptions.md R264, R267). -/
def takeInterrupt (s : State) : State :=
  match classify (armedPending s) with
  | .abort c => abort c s
  | .complete => complete s
  | .service => service (armedPending s) s

end Sys2Proof.Machine
end

