-- ==== Sys2Proof/Machine/HostOps.lean ====
section
/-!
DEFINITION. The host operations WRREG, RDREG, WAIT, STB, LDB (spec/43_host_operations.md), each its issue step, and
the wake step that ends every blocked operation.
-/
namespace Sys2Proof.Machine

/-- The busy rejection: `respond(4)` and nothing else changes (R212). -/
def rejectBusy (s : State) : State := finishHostOp .noTransaction 0#8 s

/-- The argument rejection: `respond(5)` and nothing else changes (R213). -/
def rejectArgument (s : State) : State := finishHostOp .invalidArgument 0#8 s

/-- WRREG (R215). -/
def execWrreg (block ck : Bool) (dev : BitVec 7) (reg len : Byte) (s : State) : StepResult :=
  if busy s then .next (rejectBusy s)
  else if !validLen .write len then .next (rejectArgument s)
  else if block then .next { arm .write dev reg len ck s with hwait := true }
  else .next (finishHostOp .inProgress 0#8 (arm .write dev reg len ck s))

/-- RDREG (R216): always blocks when accepted. -/
def execRdreg (ck : Bool) (dev : BitVec 7) (reg len : Byte) (s : State) : StepResult :=
  if busy s then .next (rejectBusy s)
  else if !validLen .read len then .next (rejectArgument s)
  else .next { arm .read dev reg len ck s with hwait := true }

/-- WAIT (R220): blocks while busy (R221), else the cached result, consuming a release left over (R222). -/
def execWait (s : State) : StepResult :=
  if busy s then .next { s with hwait := true }
  else .next (finishHostOp (resultCode s.tstate) 0#8 { s with sig := false })

/-- STB (R226). -/
def execStb (idx val : Byte) (s : State) : StepResult :=
  if busy s then .next (rejectBusy s)
  else .next (finishHostOp .ok 0#8 { s with buf := bufSet s.buf idx val })

/-- LDB (R229). -/
def execLdb (idx : Byte) (s : State) : StepResult :=
  if busy s then .next (rejectBusy s)
  else .next (finishHostOp .ok (readBuf s idx) s)

/-- The wake step (R217). -/
def wake (s : State) : State :=
  finishHostOp (resultCode s.tstate) 0#8 { s with sig := false, hwait := false }

end Sys2Proof.Machine
end

