-- ==== Sys2Proof/Machine/SlotOps.lean ====
section
/-!
DEFINITION. The slot commands START, WRITE, READ, STOP, each its normal step, and the two other steps of SEQ: hang and
arbitration loss (spec/41_slot_commands.md). A held slot waits: its meaning changes nothing
(notes/assumptions/12.md), and `step` does not take it.
-/
namespace Sys2Proof.Machine

/-- START (R156). -/
def execStart (s : State) : StepResult :=
  .next (advance { emit (if s.busOwn then .restart else .start) s with busOwn := true })

/-- WRITE, once the byte b is popped: TXE if that emptied TXFIFO, the bus event, and then the halt on a missing
acknowledgment that is checked, or the advance (R158). -/
def transmit (ackCheck : Bool) (b : Byte) (rest : List Byte) (s : State) : State :=
  let s1 := { s with txFifo := rest }
  let s2 := if rest = [] then raiseEvent .txe s1 else s1
  let s3 := emit (.written b (currentInput s).ack) s2
  if (currentInput s).ack = .nack ∧ ackCheck = true then haltWith .ackErr s3 else advance s3

/-- WRITE (R158). -/
def execWrite (ackCheck : Bool) (s : State) : StepResult :=
  match s.txFifo with
  | [] => .next s
  | b :: rest => .next (transmit ackCheck b rest s)

/-- READ, with the byte b the device sent (R160). -/
def receive (ackVal : Bool) (b : Byte) (s : State) : State :=
  let s1 := emit (.received b (masterAck ackVal)) { s with rxFifo := s.rxFifo ++ [b] }
  let s2 := if rxfLevel s1 then raiseEvent .rxf s1 else s1
  advance s2

/-- READ (R160). -/
def execRead (ackVal : Bool) (s : State) : StepResult :=
  if rxfLevel s then .next s else .next (receive ackVal (currentInput s).byte s)

/-- STOP (R161). -/
def execStop (s : State) : StepResult :=
  .next (advance { emit .stop s with busOwn := false })

/-- The hang step (R164). -/
def seqHang (s : State) : State := haltWith .timeout (emit (.notCompleted (currentSlotKind s)) s)

/-- The arbitration-loss step (R165). -/
def seqArbLoss (s : State) : State := haltWith .arbLost (emit (.notCompleted (currentSlotKind s)) s)

end Sys2Proof.Machine
end

