-- ==== Sys2Proof/Machine/Dispatch.lean ====
section
/-! DEFINITION. One arm per instruction: each calls its meaning. -/
namespace Sys2Proof.Machine

def exec (i : Instr) (s : State) : Host.Outcome State Fault Refusal :=
  match i with
  | .wrreg block ck dev reg len => Sys2Proof.Machine.execWrreg block ck dev reg len s
  | .rdreg ck dev reg len => Sys2Proof.Machine.execRdreg ck dev reg len s
  | .wait => Sys2Proof.Machine.execWait s
  | .stb idx val => Sys2Proof.Machine.execStb idx val s
  | .ldb idx => Sys2Proof.Machine.execLdb idx s
  | .start => Sys2Proof.Machine.execStart s
  | .write ackCheck => Sys2Proof.Machine.execWrite ackCheck s
  | .read ackVal => Sys2Proof.Machine.execRead ackVal s
  | .stop => Sys2Proof.Machine.execStop s

end Sys2Proof.Machine
end

