-- ==== Sys2Proof/Machine/Agents.lean ====
section
/-!
DEFINITION. The agents' steps and when each is enabled (spec/43_host_operations.md R210, spec/41_slot_commands.md R150,
spec/42_interrupt_classifier.md R180), which one is taken next, and placing an instruction where the machine takes
its next one.
-/
namespace Sys2Proof.Machine

/-- HOST has a step: an issue step when HWAIT = 0 and HPC is below the length of the host program, the wake step
when HWAIT = 1 and SIG = 1 (R210). -/
def hostEnabled (s : State) : Bool := if s.hwait then s.sig else decide (s.hpc < s.prog.length)

/-- SEQ's normal step is enabled: SEQ runs, the slot at CMDPTR is executable, and its hold condition is false (R150). -/
def seqNormalEnabled (s : State) : Bool :=
  s.seqRun && (match currentSlot s with
    | none => false
    | some i => !slotHeld i s)

/-- When a step is enabled (R210, R150, R165, R164, R180). -/
def moveEnabled (s : State) : Move → Bool
  | .host => hostEnabled s
  | .irq => irqLine s
  | .seqNormal => seqNormalEnabled s
  | .seqArbLoss => seqNormalEnabled s
  | .seqHang => s.seqRun

/-- Where the input names a step that is not enabled, the first enabled one of these is taken
(notes/assumptions/2.md). -/
def otherMoves : List Move := [.host, .irq, .seqNormal, .seqHang]

/-- The step taken next: any enabled agent may take it (spec/00_scope.md R6); the input chooses. -/
def nextMove (s : State) : Option Move := ((currentInput s).move :: otherMoves).find? (moveEnabled s)

/-- A final state: the program is exhausted, HOST is not suspended and no transaction is in progress
(spec/70_reset_and_hazards.md R312). -/
def isFinal (s : State) : Bool := s.hpc == s.prog.length && !s.hwait && !busy s

/-- The fault of a state in which no agent has an enabled step. -/
def stopReason (s : State) : Fault := if isFinal s then .endOfRun else .stuck

/-- HOST's issue step: decode the word at HPC and perform it; a reserved word is refused (R210,
spec/30_encoding.md R115). -/
def hostIssue (w : Word) (s : State) : StepResult :=
  match decodeHcmd w with
  | .ok i => exec i s
  | .error _ => .refused (.reservedHostWord w)

/-- HOST's step (R210). -/
def hostStep (s : State) : StepResult :=
  if s.hwait then .next (wake s)
  else
    match s.prog[s.hpc]? with
    | none => .next s
    | some w => hostIssue w s

/-- SEQ's normal step: the slot at CMDPTR is fetched, decoded and executed (R150). -/
def seqNormalStep (s : State) : StepResult :=
  match currentSlot s with
  | none => .next s
  | some i => exec i s

/-- An agent's step, which `step` takes only when it is enabled. -/
def takeMove (m : Move) (s : State) : StepResult :=
  match m with
  | .host => hostStep s
  | .irq => .next (takeInterrupt s)
  | .seqNormal => seqNormalStep s
  | .seqArbLoss => .next (seqArbLoss s)
  | .seqHang => .next (seqHang s)

/-- The step's input is consumed when it gives a next state. -/
def consumed : StepResult → StepResult
  | .next s => .next (consumeInput s)
  | .fault f => .fault f
  | .refused r => .refused r

/-- One atomic step of one agent. -/
def agentStep (s : State) : StepResult :=
  match nextMove s with
  | none => .fault (stopReason s)
  | some m => consumed (takeMove m s)

/-- A list with x at position n, padded with d below it. -/
def placeAt (x d : Word) : Nat → List Word → List Word
  | 0, [] => [x]
  | 0, _ :: l => x :: l
  | n + 1, [] => d :: placeAt x d n []
  | n + 1, y :: l => y :: placeAt x d n l

/-- The next input names the move m and acknowledges; the inputs after it stay. -/
def withNextMove (m : Move) (s : State) : State :=
  { s with inputs := ⟨m, .ack, 0#8⟩ :: s.inputs.tail }

/-- The host program has w at HPC, HOST is not suspended, and HOST takes the next step. -/
def placeHostWord (w : Word) (s : State) : State :=
  withNextMove .host { s with prog := placeAt w 0x30000000#32 s.hpc s.prog, hwait := false }

/-- The slot index the machine fetches from, kept where it is a slot. -/
def placeIndex (s : State) : BitVec 6 := if s.cmdPtr.toNat < Config.nSlots then s.cmdPtr else 0#6

/-- CMD has w at CMDPTR below CMDLEN, SEQ runs, the slot is not held, and SEQ takes the next step. -/
def placeSlotWord (w : Word) (s : State) : State :=
  let p := placeIndex s
  withNextMove .seqNormal { s with
    cmd := s.cmd.setIfInBounds p.toNat w
    cmdPtr := p
    cmdLen := if p < s.cmdLen then s.cmdLen else p + 1#6
    seqRun := true
    txFifo := if s.txFifo = [] then [0#8] else s.txFifo
    rxFifo := if rxfLevel s then [] else s.rxFifo }

/-- A word placed where the machine takes its next instruction: a slot word in CMD, any other word in the host
program (notes/assumptions/16.md). -/
def placeWord (w : Word) (s : State) : State :=
  match slotInstr w with
  | some _ => placeSlotWord w s
  | none => placeHostWord w s

end Sys2Proof.Machine
end

