-- ==== Sys2Proof/Machine/Step.lean ====
section
/-! DEFINITION. The step of the machine, and placing an instruction where it takes its next one. -/
namespace Sys2Proof.Machine

/-- One step: the next input of the outside world chooses among the agents whose step is enabled, and that agent takes
one atomic step (spec/00_scope.md R6, notes/assumptions/1.md, 2.md). -/
def step (s : State) : Host.Outcome State Fault Refusal := agentStep s

/-- `s` with the 32-bit word whose bits are w stored where `step` takes its next instruction, and every enabling
condition of that step met, so that the next step runs exactly it (notes/assumptions/16.md). -/
def State.withFetchWord (s : State) (nbits w : Nat) : State := placeWord (BitVec.ofNat 32 (w % 2 ^ nbits)) s

end Sys2Proof.Machine
end

