-- ==== Sys2Proof/Machine/Platform.lean ====
section
/-!
DEFINITION. Several controllers beside each other (spec/60_exceptions.md R270) and their construction
(spec/70_reset_and_hazards.md R294, R296): each is a complete copy of the one-controller machine with a bus of its own,
they share nothing, and the dispatch table, keyed by CTRL_INDEX, says which one an interrupting hardware unit belongs to.
-/
namespace Sys2Proof.Machine

/-- The controllers constructed so far; the table DISPATCH is their CTRL_INDEX (R270). -/
structure Platform where
  units : List State
  deriving DecidableEq, Repr

/-- `DISPATCH[u]`: the position of the controller of hardware unit u; `none` where the table has no entry, which the
specification leaves without a meaning (spec/91_not_in_source.md N21, notes/assumptions/17.md). -/
def dispatchUnit (p : Platform) (u : Nat) : Option Nat :=
  p.units.findIdx? (fun s => s.params.ctrlIndex == u)

/-- A controller in its reset state on its own bus: the answers of that bus and the order of that controller's agents are
`ins`, as far as they are fixed (R270, notes/assumptions/1.md). -/
def freshUnit (q : Params) (prog : List Word) (ins : List Input) : State :=
  { State.resetWith q prog with inputs := ins }

/-- Construction (R294): it fails when the hardware unit cannot be acquired (R296), and otherwise adds a controller in its
reset state with its entry in the table. DESIGN CHOICE (notes/assumptions/20.md), unsafe: the number of units and the range
of CTRL_INDEX are not in the source (spec/91_not_in_source.md N21), so the specification does not say which acquisitions
fail; here it fails exactly when a controller already owns the unit, and every other CTRL_INDEX is acquired. -/
def construct (q : Params) (prog : List Word) (ins : List Input) (p : Platform) : Option Platform :=
  match dispatchUnit p q.ctrlIndex with
  | some _ => none
  | none => some ⟨p.units ++ [freshUnit q prog ins]⟩

/-- The platform after the controller at position k moved to s. -/
def withUnit (p : Platform) (k : Nat) (s : State) : Platform := ⟨p.units.set k s⟩

/-- One step of the controller at position k: any agent of any controller may step next (R270). -/
def platformStep (p : Platform) (k : Nat) : Option (Host.Outcome Platform Fault Refusal) :=
  match p.units[k]? with
  | none => none
  | some s =>
    match step s with
    | .next s' => some (.next (withUnit p k s'))
    | .fault f => some (.fault f)
    | .refused r => some (.refused r)

/-- The interrupt request of hardware unit u invokes the classifier of controller `DISPATCH[u]` and of no other (R270);
what moves is that controller, by the classifier's step with its input consumed as in `step` (notes/assumptions/1.md).
`none` where there is no entry, or the controller requests no interrupt. -/
def platformInterrupt (p : Platform) (u : Nat) : Option Platform :=
  match dispatchUnit p u with
  | none => none
  | some k =>
    match p.units[k]? with
    | none => none
    | some s => if irqLine s then some (withUnit p k (consumeInput (takeInterrupt s))) else none

end Sys2Proof.Machine
end

