-- ==== Sys2Proof/Safety.lean ====
section
/-!
DEFINITION. What claims are stated over: the invariant of the machine (spec/70_reset_and_hazards.md R291 with
spec/41_slot_commands.md R153, R168 and spec/10_state.md R42, R43, which make it one that every step keeps), the
reachable states, the work left, and the frames.
-/
namespace Sys2Proof.Machine

/-- The four terminal events (spec/00_scope.md R16). -/
def terminalEvents : BitVec 6 := 0x3C#6

/-- The terminal events pending. -/
def terminalPending (s : State) : BitVec 6 := s.intPend &&& terminalEvents

/-- An event is pending. -/
abbrev Pending (e : Event) (s : State) : Prop := s.intPend &&& eventMask e ≠ 0#6

/-- The slot commands of the current transaction, from the operand latch. -/
def slotsOf (s : State) : List Instr := buildSlots s.opr.kind s.opr.len.toNat s.opr.checkAck

/-- WRITE slots completed: those below CMDPTR. -/
def writesDone (s : State) : Nat := ((slotsOf s).take s.cmdPtr.toNat).countP Instr.isWrite

/-- READ slots completed: those below CMDPTR. -/
def readsDone (s : State) : Nat := ((slotsOf s).take s.cmdPtr.toNat).countP Instr.isRead

/-- Bounds that hold in every state (R291), and BUF and RESP in the form the specification gives them. -/
abbrev BoundsInv (s : State) : Prop :=
  s.params.wf ∧ s.cmdPtr ≤ s.cmdLen ∧ s.cmdLen.toNat ≤ Config.nSlots ∧
  s.txFifo.length ≤ s.params.txDepth ∧ s.rxFifo.length ≤ s.params.rxDepth ∧
  s.txIdx ≤ s.txLen ∧ s.txLen.toNat ≤ 30 ∧ s.rxIdx.toNat ≤ 26 ∧
  Memory.wf s.buf = true ∧ respWellFormed s.resp = true ∧ s.hpc ≤ s.prog.length

/-- How TSTATE, the interrupt registers, SEQ_RUN, SIG and HWAIT go together (R291). -/
abbrev ModeInv (s : State) : Prop :=
  (s.seqRun = true → s.tstate = .inProgress) ∧
  (s.tstate ≠ .inProgress → s.intEna = 0#6 ∧ s.intPend = 0#6 ∧ s.seqRun = false ∧ s.txFifo = [] ∧
    s.rxFifo = [] ∧ s.busOwn = false) ∧
  (s.tstate = .inProgress → s.intEna = allEvents) ∧
  (s.hwait = true ∧ s.sig = false → s.tstate = .inProgress) ∧
  (s.sig = true → completed s.tstate = true) ∧
  (s.hwait = true → s.hpc < s.prog.length)

/-- The command buffer holds the sequence of the operand latch. -/
abbrev BuiltInv (s : State) : Prop :=
  validLen s.opr.kind s.opr.len = true ∧
  s.cmd.toList.take s.cmdLen.toNat = buildWords s.opr.kind s.opr.len.toNat s.opr.checkAck ∧
  s.cmdLen = BitVec.ofNat 6 (buildSize s.opr.kind s.opr.len.toNat) ∧
  s.txLen = BitVec.ofNat 5 (buildTxLen s.opr.kind s.opr.len.toNat)

/-- The FIFOs and their indices keep step with the slots completed (spec/10_state.md R42, R43); the bus is held
from the first START to the STOP (R38). -/
abbrev ProgressInv (s : State) : Prop :=
  s.txIdx.toNat = s.txFifo.length + writesDone s + (if Pending .ackErr s then 1 else 0) ∧
  s.rxIdx.toNat + s.rxFifo.length = readsDone s ∧
  s.busOwn = decide (0#6 < s.cmdPtr ∧ s.cmdPtr < s.cmdLen)

/-- SEQ runs and no terminal event is pending, or it is halted and exactly one is (spec/41_slot_commands.md R153);
DONE means that every slot completed, ACKERR that the slot at CMDPTR is a WRITE. -/
abbrev EventInv (s : State) : Prop :=
  (s.seqRun = true → terminalPending s = 0#6 ∧ s.cmdPtr < s.cmdLen) ∧
  (s.seqRun = false → terminalPending s = eventMask .ackErr ∨ terminalPending s = eventMask .timeout ∨
    terminalPending s = eventMask .done ∨ terminalPending s = eventMask .arbLost) ∧
  (Pending .done s ↔ s.cmdPtr = s.cmdLen) ∧
  (Pending .ackErr s → ((slotsOf s)[s.cmdPtr.toNat]?).any Instr.isWrite = true)

/-- An empty TXFIFO with bytes left to send has TXE pending, a full RXFIFO has RXF pending
(spec/41_slot_commands.md R168). -/
abbrev RefillInv (s : State) : Prop :=
  (s.txFifo = [] ∧ s.txIdx < s.txLen → Pending .txe s) ∧
  (s.rxFifo.length = s.params.rxDepth → Pending .rxf s)

/-- What holds of a transaction in progress. -/
structure TransactionInv (s : State) : Prop where
  built    : BuiltInv s
  progress : ProgressInv s
  events   : EventInv s
  refill   : RefillInv s

/-- The invariant of the machine. -/
structure Inv (s : State) : Prop where
  bounds      : BoundsInv s
  mode        : ModeInv s
  transaction : s.tstate = .inProgress → TransactionInv s

/-- The states a run can reach: from the reset state of a controller with parameters p, host program prog and any
inputs, by any number of steps (spec/70_reset_and_hazards.md R312). -/
inductive Reachable (p : Params) (prog : List Word) : State → Prop where
  | reset (ins : List Input) : Reachable p prog { State.resetWith p prog with inputs := ins }
  | step {s t : State} : Reachable p prog s → step s = .next t → Reachable p prog t

/-- No two controllers own one hardware unit: "Exactly one Controller Instance exists per physical bus"
(spec/60_exceptions.md R270). -/
abbrev Platform.wf (p : Platform) : Prop := (p.units.map (fun s => s.params.ctrlIndex)).Nodup

/-- A bound on the steps a transaction can still take (spec/70_reset_and_hazards.md R310): its terminal step, its slots,
and the service events pending. -/
def transactionWork (s : State) : Nat :=
  if s.tstate = .inProgress then
    1 + (if s.seqRun then 3 * (s.cmdLen.toNat - s.cmdPtr.toNat + 1) else 0)
      + (if Pending .txe s then 1 else 0) + (if Pending .rxf s then 1 else 0)
  else 0

/-- A bound on the steps a run can still take: for every host operation left, its own step, its wake step and its
transaction. -/
def work (s : State) : Nat :=
  300 * (s.prog.length - s.hpc) + (if s.hwait then 0 else 120) + transactionWork s

/-- BUF[i] for i below n, each where it holds a value. -/
def bufTaken (m : Memory) (n : Nat) : List (Option Byte) :=
  (List.range n).map (fun i => bufGet m (BitVec.ofNat 8 i))

/-- The bytes received on the bus, oldest first. -/
def receivedBytes (t : List BusEvent) : List Byte :=
  t.filterMap (fun e => match e with
    | .received b _ => some b
    | .written _ _ => none
    | .start => none
    | .restart => none
    | .stop => none
    | .released _ => none
    | .notCompleted _ => none)

/-- What the current read transaction has received so far: the bytes already in BUF, then those in RXFIFO
(spec/20_memory.md R84). -/
def readStream (s : State) : List (Option Byte) :=
  bufTaken s.buf s.rxIdx.toNat ++ s.rxFifo.map some

/-- A write transaction whose payload bytes all hold a value (spec/70_reset_and_hazards.md R297); a read has none. -/
abbrev PayloadWritten (s : State) : Prop :=
  s.opr.kind = .write → ∀ i < s.opr.len.toNat, (bufGet s.buf (BitVec.ofNat 8 i)).isSome = true

/-- TXFIFO holds bytes TXIDX - |TXFIFO| up to TXIDX - 1 of the TX stream, in order (spec/20_memory.md R84). -/
abbrev TxOrdered (s : State) : Prop :=
  ∀ j < s.txFifo.length, s.txFifo[j]? = some (txByte s (BitVec.ofNat 5 (s.txIdx.toNat - s.txFifo.length + j)))

/-- The response word of a result (spec/43_host_operations.md R211 with spec/30_encoding.md R108), in figures. -/
def resultWord : TState → Word
  | .idle => 0x80000004#32
  | .inProgress => 0x80000006#32
  | .completedOk => 0x80000000#32
  | .completedNack => 0x80000001#32
  | .completedTimeout => 0x80000002#32
  | .completedArbLost => 0x80000003#32

/-- `t` is `s` after the arm step of an accepted request (spec/43_host_operations.md R214), but for HWAIT, RESP and HPC. -/
structure ArmedBy (k : Kind) (dev : BitVec 7) (reg len : Byte) (ck : Bool) (s t : State) : Prop where
  opr        : t.opr = ⟨k, dev, reg, len, ck⟩
  slots      : ∀ j < buildSize k len.toNat, t.cmd[j]? = (buildWords k len.toNat ck)[j]?
  slotsAbove : ∀ j, buildSize k len.toNat ≤ j → t.cmd[j]? = s.cmd[j]?
  cmdLen     : t.cmdLen.toNat = buildSize k len.toNat
  cmdPtr     : t.cmdPtr = 0#6
  txLen      : t.txLen.toNat = buildTxLen k len.toNat
  txIdx      : t.txIdx.toNat = min s.params.txDepth (buildTxLen k len.toNat)
  txFifo     : t.txFifo =
    (List.range (min s.params.txDepth (buildTxLen k len.toNat))).map (fun j => txByte t (BitVec.ofNat 5 j))
  rxIdx      : t.rxIdx = 0#5
  rxFifo     : t.rxFifo = []
  sig        : t.sig = false
  intPend    : t.intPend = 0#6
  intEna     : t.intEna = 0x3F#6
  tstate     : t.tstate = .inProgress
  seqRun     : t.seqRun = true
  busOwn     : t.busOwn = s.busOwn
  trace      : t.trace = s.trace
  buf        : t.buf = s.buf
  params     : t.params = s.params
  prog       : t.prog = s.prog
  inputs     : t.inputs = s.inputs
  draws      : t.draws = s.draws

/-- What neither a service event nor a slot command ever writes. -/
structure SameHostSide (s t : State) : Prop where
  tstate : t.tstate = s.tstate
  sig    : t.sig = s.sig
  intEna : t.intEna = s.intEna
  cmd    : t.cmd = s.cmd
  cmdLen : t.cmdLen = s.cmdLen
  txLen  : t.txLen = s.txLen
  opr    : t.opr = s.opr
  resp   : t.resp = s.resp
  hwait  : t.hwait = s.hwait
  hpc    : t.hpc = s.hpc
  params : t.params = s.params
  prog   : t.prog = s.prog
  inputs : t.inputs = s.inputs
  draws  : t.draws = s.draws

/-- What no host operation but an accepted WRREG or RDREG writes. -/
structure SameTransaction (s t : State) : Prop where
  tstate  : t.tstate = s.tstate
  intEna  : t.intEna = s.intEna
  intPend : t.intPend = s.intPend
  cmd     : t.cmd = s.cmd
  cmdLen  : t.cmdLen = s.cmdLen
  cmdPtr  : t.cmdPtr = s.cmdPtr
  seqRun  : t.seqRun = s.seqRun
  txFifo  : t.txFifo = s.txFifo
  rxFifo  : t.rxFifo = s.rxFifo
  txIdx   : t.txIdx = s.txIdx
  txLen   : t.txLen = s.txLen
  rxIdx   : t.rxIdx = s.rxIdx
  opr     : t.opr = s.opr

end Sys2Proof.Machine
end

