-- ==== Sys2Proof/Certificates/Slice0/Obligations.lean ====
section
/-!
DEFINITION. The statements about the machine, each with the rule of spec/ it formalises. Those about a value or a
behaviour the model chose say so and name the entry of notes/assumptions/.
-/
open Sys2Proof Sys2Proof.Machine

/-! Encoding. -/

/-- Every instruction, with every value of every operand, is read back from its word (R101, R102, R104, R105). -/
def Obligations.DecodeOfEncodeIsTheInstruction : Prop :=
  ∀ i : Instr, decode (encode i) = .ok i

/-- A word that decodes is the word of the instruction it decodes to: no bit is ignored (R101, R102, R104, R105). -/
def Obligations.EncodeOfDecodeIsTheWord : Prop :=
  ∀ (w : Word) (i : Instr), decode w = .ok i → encode i = w

/-- Words written out in spec/30_encoding.md R121 and spec/95_test_vectors.md section 3. -/
def Obligations.WrittenOutWordsDecode : Prop :=
  decodeHcmd 0x1C501002#32 = .ok (.wrreg true true 0x50#7 0x10#8 2#8) ∧
  decodeHcmd 0x18511002#32 = .ok (.wrreg true false 0x51#7 0x10#8 2#8) ∧
  decodeHcmd 0x24501003#32 = .ok (.rdreg true 0x50#7 0x10#8 3#8) ∧
  decodeHcmd 0x30000000#32 = .ok .wait ∧
  decodeHcmd 0x400000AB#32 = .ok (.stb 0#8 0xAB#8) ∧
  decodeHcmd 0x50000100#32 = .ok (.ldb 1#8) ∧
  decodeSlot 0x00000001#32 = .ok .start ∧
  decodeSlot 0x00000002#32 = .ok (.write false) ∧
  decodeSlot 0x0000000A#32 = .ok (.write true) ∧
  decodeSlot 0x00000003#32 = .ok (.read false) ∧
  decodeSlot 0x00000013#32 = .ok (.read true) ∧
  decodeSlot 0x00000004#32 = .ok .stop

/-- The rows of the opcode table select pairwise disjoint sets of words, and a decoder reads an instruction from
exactly the words a row of its format selects (R102, R105). -/
def Obligations.RowsAreDisjointAndDecodersFollowThem : Prop :=
  (∀ (w : Word), ∀ r ∈ hcmdRows ++ slotRows, ∀ r' ∈ hcmdRows ++ slotRows,
    r.selects w = true → r'.selects w = true → r = r') ∧
  (∀ w : Word, (∃ i, decodeHcmd w = .ok i) ↔ ∃ r ∈ hcmdRows, r.selects w = true) ∧
  (∀ w : Word, (∃ i, decodeSlot w = .ok i) ↔ ∃ r ∈ slotRows, r.selects w = true)

/-- An assembler line whose operands are in range is encoded with those operands, and any other is rejected; the ranges of
R118 in figures. -/
def Obligations.AssemblerRejectsOutOfRangeOperands : Prop :=
  (∀ l : AsmLine, assemble l = none ↔ l.wf = false) ∧
  (∀ dev reg len block ck : Nat, assemble (.wrreg dev reg len block ck) = none ↔
    127 < dev ∨ 255 < reg ∨ 255 < len ∨ 1 < block ∨ 1 < ck) ∧
  (∀ dev reg len ck : Nat, assemble (.rdreg dev reg len ck) = none ↔ 127 < dev ∨ 255 < reg ∨ 255 < len ∨ 1 < ck) ∧
  (∀ idx val : Nat, assemble (.stb idx val) = none ↔ 255 < idx ∨ 255 < val) ∧
  (∀ idx : Nat, assemble (.ldb idx) = none ↔ 255 < idx) ∧
  (∀ dev reg len block ck : Nat, dev ≤ 127 → reg ≤ 255 → len ≤ 255 → block ≤ 1 → ck ≤ 1 →
    ∃ b c d r n, assemble (.wrreg dev reg len block ck) = some (.wrreg b c d r n) ∧
      b.toNat = block ∧ c.toNat = ck ∧ d.toNat = dev ∧ r.toNat = reg ∧ n.toNat = len) ∧
  (∀ dev reg len ck : Nat, dev ≤ 127 → reg ≤ 255 → len ≤ 255 → ck ≤ 1 →
    ∃ c d r n, assemble (.rdreg dev reg len ck) = some (.rdreg c d r n) ∧
      c.toNat = ck ∧ d.toNat = dev ∧ r.toNat = reg ∧ n.toNat = len) ∧
  (∀ idx val : Nat, idx ≤ 255 → val ≤ 255 →
    ∃ i v, assemble (.stb idx val) = some (.stb i v) ∧ i.toNat = idx ∧ v.toNat = val) ∧
  (∀ idx : Nat, idx ≤ 255 → ∃ i, assemble (.ldb idx) = some (.ldb i) ∧ i.toNat = idx) ∧
  assemble .wait = some .wait

/-- R115: an HCMD word that selects no row decodes to no operation, and HOST's issue step refuses it by name. -/
def Obligations.ReservedHostWordIsRefused : Prop :=
  ∀ (s : State) (w : Word), (∀ r ∈ hcmdRows, r.selects w = false) →
    (∃ e, decodeHcmd w = .error e) ∧
    (s.hwait = false → s.prog[s.hpc]? = some w →
      moveEnabled s .host = true ∧ takeMove .host s = .refused (.reservedHostWord w))

/-- R116: the builder produces executable slot words only; where SEQ is at a word that selects no executable row, its
normal step and its arbitration-loss step are not enabled and the hang step is. -/
def Obligations.ReservedSlotWordLeavesOnlyTheHang : Prop :=
  (∀ (k : Kind) (len : Nat) (ck : Bool), ∀ w ∈ buildWords k len ck, ∃ r ∈ slotRows, r.selects w = true) ∧
  (∀ (s : State) (w : Word), s.seqRun = true → fetchSlot s = some w → (∀ r ∈ slotRows, r.selects w = false) →
    moveEnabled s .seqNormal = false ∧ moveEnabled s .seqArbLoss = false ∧ moveEnabled s .seqHang = true)

/-- R108: RESP's fields, and its other bits zero, for every code and byte. -/
def Obligations.ResponseWordHasItsFields : Prop :=
  ∀ (c : Code) (d : Byte),
    respValid (respWord c d) = true ∧ respData (respWord c d) = d ∧ respCode (respWord c d) = codeNum c ∧
    (respWord c d).extractLsb' 16 15 = 0#15 ∧ (respWord c d).extractLsb' 3 5 = 0#5

/-! The command builder. -/

/-- R131, R132, R137: the shape of every built sequence, and the slot at every place of it; every WRITE slot carries
ACK_CHECK = ck, and START is at slot 0 and, the repeated start of a read, at slot 3. The order of a read is general knowledge by the spec's own mark
(notes/assumptions/18.md). -/
def Obligations.BuiltSequenceHasItsShape : Prop :=
  ∀ (k : Kind) (len : Byte) (ck : Bool), validLen k len = true →
    let l := buildSlots k len.toNat ck
    l.length = buildSize k len.toNat ∧ 5 ≤ l.length ∧ l.length ≤ 32 ∧
    l[0]? = some .start ∧
    (∀ j, l[j]? = some .stop ↔ j + 1 = l.length) ∧
    (∀ w ∈ buildWords k len.toNat ck, w ∈ [1#32, 2#32, 0xA#32, 3#32, 0x13#32, 4#32]) ∧
    (∀ a b : Nat, (l[a]?).any Instr.isWrite = true → (l[b]?).any Instr.isRead = true → a < b) ∧
    l.countP Instr.isWrite = buildTxLen k len.toNat ∧
    l.countP Instr.isRead = (if k = .read then len.toNat else 0) ∧
    (∀ j, l[j]? = some (.read true) ↔ k = .read ∧ j + 2 = l.length) ∧
    (∀ (j : Nat) (c : Bool), l[j]? = some (.write c) → c = ck) ∧
    (∀ j, l[j]? = some .start ↔ j = 0 ∨ k = .read ∧ j = 3) ∧
    (k = .write → ∀ j, l[j]? = some (.write ck) ↔ 1 ≤ j ∧ j ≤ len.toNat + 2) ∧
    (k = .read → (∀ j, l[j]? = some (.write ck) ↔ j = 1 ∨ j = 2 ∨ j = 4) ∧
      ∀ j, l[j]? = some (.read false) ↔ 5 ≤ j ∧ j ≤ len.toNat + 3)

/-- R133, R134, R135: the size of the sequence, the length check as the capacity of the buffer, and the lengths of the
source's round-trip property: 1 and 16 are valid for both directions and 255 for neither. -/
def Obligations.LengthCheckIsTheBufferCapacity : Prop :=
  (∀ (k : Kind) (len : Byte) (ck : Bool), 1 ≤ len.toNat →
    (buildWords k len.toNat ck).length = (if k = .write then len.toNat + 4 else len.toNat + 6)) ∧
  (∀ (k : Kind) (len : Byte) (ck : Bool),
    validLen k len = true ↔ 1 ≤ len.toNat ∧ (buildWords k len.toNat ck).length ≤ 32) ∧
  (∀ len : Byte, validLen .write len = true ↔ 1 ≤ len.toNat ∧ len.toNat ≤ 28) ∧
  (∀ len : Byte, validLen .read len = true ↔ 1 ≤ len.toNat ∧ len.toNat ≤ 26) ∧
  (∀ k : Kind, validLen k 1#8 = true ∧ validLen k 16#8 = true ∧ validLen k 255#8 = false)

/-- R113, R136: the address byte is DEVADDR * 2 + rw, and the bytes of the TX stream. The place of the direction bit is general
knowledge (spec/93_implementation_defined.md G1, notes/assumptions/18.md). -/
def Obligations.TransmitStreamBytes : Prop :=
  (∀ (dev : BitVec 7) (rd : Bool), (addrByte dev rd).toNat = 2 * dev.toNat + rd.toNat) ∧
  (∀ s : State, (txByte s 0#5).toNat = 2 * s.opr.devAddr.toNat ∧ txByte s 1#5 = s.opr.startReg) ∧
  (∀ s : State, s.opr.kind = .read → (txByte s 2#5).toNat = 2 * s.opr.devAddr.toNat + 1) ∧
  (∀ (s : State) (i : Nat) (b : Byte), s.opr.kind = .write → i < 28 → bufGet s.buf (BitVec.ofNat 8 i) = some b →
    txByte s (BitVec.ofNat 5 (i + 2)) = b)

/-! Host operations. -/

/-- R212: WRREG, RDREG, STB and LDB while busy answer code 4, change nothing else, and never block. -/
def Obligations.BusyOperationIsRejected : Prop :=
  ∀ s : State, s.tstate = .inProgress →
    (∀ block ck dev reg len,
      exec (.wrreg block ck dev reg len) s = .next { s with resp := 0x80000004#32, hpc := s.hpc + 1 }) ∧
    (∀ ck dev reg len, exec (.rdreg ck dev reg len) s = .next { s with resp := 0x80000004#32, hpc := s.hpc + 1 }) ∧
    (∀ idx val, exec (.stb idx val) s = .next { s with resp := 0x80000004#32, hpc := s.hpc + 1 }) ∧
    (∀ idx, exec (.ldb idx) s = .next { s with resp := 0x80000004#32, hpc := s.hpc + 1 })

/-- R213: a WRREG or RDREG that is not busy and has LEN out of its range answers code 5 and changes nothing else; the
busy test comes first. -/
def Obligations.LengthOutOfRangeIsRejected : Prop :=
  (∀ (s : State) (block ck : Bool) (dev : BitVec 7) (reg len : Byte), s.tstate ≠ .inProgress →
    (len.toNat = 0 ∨ 28 < len.toNat) →
    exec (.wrreg block ck dev reg len) s = .next { s with resp := 0x80000005#32, hpc := s.hpc + 1 }) ∧
  (∀ (s : State) (ck : Bool) (dev : BitVec 7) (reg len : Byte), s.tstate ≠ .inProgress →
    (len.toNat = 0 ∨ 26 < len.toNat) →
    exec (.rdreg ck dev reg len) s = .next { s with resp := 0x80000005#32, hpc := s.hpc + 1 }) ∧
  (∀ (s : State) (block ck : Bool) (dev : BitVec 7) (reg : Byte), s.tstate = .inProgress →
    exec (.wrreg block ck dev reg 0#8) s = .next { s with resp := 0x80000004#32, hpc := s.hpc + 1 } ∧
    exec (.rdreg ck dev reg 0#8) s = .next { s with resp := 0x80000004#32, hpc := s.hpc + 1 })

/-- R214, R215: an accepted WRREG arms the transaction, and then blocks (BLOCK = 1: RESP and HPC unchanged) or answers
code 6. -/
def Obligations.AcceptedWrregArmsTheTransaction : Prop :=
  ∀ (s : State) (block ck : Bool) (dev : BitVec 7) (reg len : Byte), s.tstate ≠ .inProgress →
    1 ≤ len.toNat → len.toNat ≤ 28 →
    ∃ t, exec (.wrreg block ck dev reg len) s = .next t ∧ ArmedBy .write dev reg len ck s t ∧
      (block = true → t.hwait = true ∧ t.resp = s.resp ∧ t.hpc = s.hpc) ∧
      (block = false → t.hwait = s.hwait ∧ t.resp = 0x80000006#32 ∧ t.hpc = s.hpc + 1)

/-- R214, R216: an accepted RDREG arms the transaction and blocks. -/
def Obligations.AcceptedRdregArmsTheTransaction : Prop :=
  ∀ (s : State) (ck : Bool) (dev : BitVec 7) (reg len : Byte), s.tstate ≠ .inProgress →
    1 ≤ len.toNat → len.toNat ≤ 26 →
    ∃ t, exec (.rdreg ck dev reg len) s = .next t ∧ ArmedBy .read dev reg len ck s t ∧
      t.hwait = true ∧ t.resp = s.resp ∧ t.hpc = s.hpc

/-- R221, R222 with R211: WAIT while busy sets HWAIT and nothing else; WAIT while not busy answers the cached result, 4 when
no transaction ever ran, and consumes a release left over; asked twice in a row it answers the same. -/
def Obligations.WaitBlocksOrAnswersTheCachedResult : Prop :=
  (∀ s : State, s.tstate = .inProgress → exec .wait s = .next { s with hwait := true }) ∧
  (∀ s : State, s.tstate ≠ .inProgress →
    exec .wait s = .next { s with sig := false, resp := resultWord s.tstate, hpc := s.hpc + 1 }) ∧
  (∀ s t : State, s.tstate ≠ .inProgress → exec .wait s = .next t →
    ∃ u, exec .wait t = .next u ∧ u.resp = t.resp ∧ u.tstate = s.tstate)

/-- R226: STB while not busy stores its byte and answers code 0, every other byte of BUF reading as before; while busy it
answers code 4 and stores nothing. -/
def Obligations.StbStoresItsByte : Prop :=
  (∀ (s : State) (idx val : Byte), s.tstate ≠ .inProgress →
    ∃ m : Memory, exec (.stb idx val) s = .next { s with buf := m, resp := 0x80000000#32, hpc := s.hpc + 1 } ∧
      bufGet m idx = some val ∧ ∀ a : Byte, a ≠ idx → bufGet m a = bufGet s.buf a) ∧
  (∀ (s : State) (idx val : Byte), s.tstate = .inProgress →
    exec (.stb idx val) s = .next { s with resp := 0x80000004#32, hpc := s.hpc + 1 })

/-- R229: LDB while not busy answers code 0 with the byte BUF holds, and with some byte where BUF holds no value (a free
value, notes/assumptions/8.md); nothing else changes. -/
def Obligations.LdbAnswersTheByte : Prop :=
  ∀ (s : State) (idx : Byte), s.tstate ≠ .inProgress →
    ∃ v : Byte, (∀ b, bufGet s.buf idx = some b → v = b) ∧
      exec (.ldb idx) s = .next { s with resp := 0x80000000#32 ||| (v.setWidth 32 <<< 8), hpc := s.hpc + 1 }

/-- R217: the wake step, and that TSTATE is a Completed value in it in every run. -/
def Obligations.WakeReturnsTheTerminalResult : Prop :=
  (∀ s : State, s.hwait = true → s.sig = true → moveEnabled s .host = true ∧
    takeMove .host s = .next { s with sig := false, hwait := false, resp := resultWord s.tstate, hpc := s.hpc + 1 }) ∧
  (∀ (p : Params) (prog : List Word) (s : State), p.wf → Reachable p prog s → s.hwait = true → s.sig = true →
    s.tstate ≠ .idle ∧ s.tstate ≠ .inProgress) ∧
  (∀ s : State, s.hwait = true → s.sig = false → moveEnabled s .host = false)

/-- R232: what WRREG, RDREG, WAIT, STB and LDB leave unchanged. No host operation touches the bus side, and BUF changes
only at the byte an STB stores; all but an accepted WRREG or RDREG leave the whole transaction as it is. -/
def Obligations.HostOperationFrame : Prop :=
  (∀ (i : Instr) (s t : State), i.isHostOp = true → exec i s = .next t →
    t.trace = s.trace ∧ t.busOwn = s.busOwn ∧ t.params = s.params ∧ t.prog = s.prog ∧
    t.inputs = s.inputs ∧ t.draws = s.draws ∧
    (∀ a : Byte, (∀ v, i ≠ .stb a v) → bufGet t.buf a = bufGet s.buf a)) ∧
  (∀ (i : Instr) (s t : State), i.isHostOp = true → exec i s = .next t →
    (t.tstate ≠ .inProgress ∨ s.tstate = .inProgress) → SameTransaction s t ∧
      (i ≠ .wait → t.sig = s.sig ∧ t.hwait = s.hwait))

/-! Slot commands. -/

/-- R156 with R152: START is never held, and its normal step. -/
def Obligations.StartTakesTheBus : Prop :=
  ∀ s : State, slotHeld .start s = false ∧ exec .start s = .next { s with
    trace := s.trace ++ [if s.busOwn then .restart else .start]
    busOwn := true
    cmdPtr := s.cmdPtr + 1#6
    intPend := if s.cmdPtr + 1#6 = s.cmdLen then s.intPend ||| 0x10#6 else s.intPend
    seqRun := if s.cmdPtr + 1#6 = s.cmdLen then false else s.seqRun }

/-- R158 with R152: WRITE is held exactly where TXFIFO is empty; its normal step, for either answer of the bus: the head of
TXFIFO is transmitted; TXE is raised when TXFIFO becomes empty; a missing acknowledgment that is checked raises ACKERR and
halts, anything else advances. -/
def Obligations.WriteTransmitsOneByte : Prop :=
  (∀ (ackCheck : Bool) (s : State), slotHeld (.write ackCheck) s = true ↔ s.txFifo = []) ∧
  ∀ (ackCheck : Bool) (s : State) (b : Byte) (q : List Byte), s.txFifo = b :: q →
    let a := (currentInput s).ack
    let p := if q = [] then s.intPend ||| 0x01#6 else s.intPend
    exec (.write ackCheck) s = .next (
      if a = .nack ∧ ackCheck = true then
        { s with txFifo := q, trace := s.trace ++ [.written b a], intPend := p ||| 0x04#6, seqRun := false }
      else
        { s with
          txFifo := q
          trace := s.trace ++ [.written b a]
          cmdPtr := s.cmdPtr + 1#6
          intPend := if s.cmdPtr + 1#6 = s.cmdLen then p ||| 0x10#6 else p
          seqRun := if s.cmdPtr + 1#6 = s.cmdLen then false else s.seqRun })

/-- R160 with R152: READ is held exactly where RXFIFO is full; its normal step, for every byte the bus gives: the byte goes
to the tail of RXFIFO, the master answers as ACK_VAL says, and RXF is raised when RXFIFO becomes full. -/
def Obligations.ReadReceivesOneByte : Prop :=
  (∀ (ackVal : Bool) (s : State), slotHeld (.read ackVal) s = true ↔ s.rxFifo.length = s.params.rxDepth) ∧
  ∀ (ackVal : Bool) (s : State), s.rxFifo.length ≠ s.params.rxDepth →
    let b := (currentInput s).byte
    let p := if s.rxFifo.length + 1 = s.params.rxDepth then s.intPend ||| 0x02#6 else s.intPend
    exec (.read ackVal) s = .next { s with
      rxFifo := s.rxFifo ++ [b]
      trace := s.trace ++ [.received b (if ackVal then .nack else .ack)]
      cmdPtr := s.cmdPtr + 1#6
      intPend := if s.cmdPtr + 1#6 = s.cmdLen then p ||| 0x10#6 else p
      seqRun := if s.cmdPtr + 1#6 = s.cmdLen then false else s.seqRun }

/-- R161 with R152: STOP is never held, and its normal step. -/
def Obligations.StopReleasesTheBus : Prop :=
  ∀ s : State, slotHeld .stop s = false ∧ exec .stop s = .next { s with
    trace := s.trace ++ [.stop]
    busOwn := false
    cmdPtr := s.cmdPtr + 1#6
    intPend := if s.cmdPtr + 1#6 = s.cmdLen then s.intPend ||| 0x10#6 else s.intPend
    seqRun := if s.cmdPtr + 1#6 = s.cmdLen then false else s.seqRun }

/-- What START, WRITE, READ and STOP leave unchanged: HOST's side, the TX and RX indices, every byte of BUF, and the
pending bits TIMEOUT and ARBLOST; START and STOP leave both FIFOs, WRITE the receive side and BUSOWN, READ the transmit
side and BUSOWN. -/
def Obligations.SlotCommandFrame : Prop :=
  ∀ (i : Instr) (s t : State), i.isHostOp = false → exec i s = .next t →
    SameHostSide s t ∧ t.txIdx = s.txIdx ∧ t.rxIdx = s.rxIdx ∧ (∀ a : Byte, bufGet t.buf a = bufGet s.buf a) ∧
    t.intPend.getLsbD 3 = s.intPend.getLsbD 3 ∧ t.intPend.getLsbD 5 = s.intPend.getLsbD 5 ∧
    (i.isWrite = false → t.txFifo = s.txFifo ∧ t.intPend.getLsbD 0 = s.intPend.getLsbD 0 ∧
      t.intPend.getLsbD 2 = s.intPend.getLsbD 2) ∧
    (i.isRead = false → t.rxFifo = s.rxFifo ∧ t.intPend.getLsbD 1 = s.intPend.getLsbD 1) ∧
    (i.isWrite = true ∨ i.isRead = true → t.busOwn = s.busOwn)

/-- R150, R158, R160: a WRITE with TXFIFO empty and a READ with RXFIFO full are held: neither the normal step nor the
arbitration-loss step is enabled, the hang step is. -/
def Obligations.HeldSlotLeavesOnlyTheHang : Prop :=
  ∀ (s : State) (k : Bool), s.seqRun = true →
    (currentSlot s = some (.write k) ∧ s.txFifo = [] ∨
      currentSlot s = some (.read k) ∧ s.rxFifo.length = s.params.rxDepth) →
    moveEnabled s .seqNormal = false ∧ moveEnabled s .seqArbLoss = false ∧ moveEnabled s .seqHang = true

/-- R164: the hang step, enabled whenever SEQ_RUN = 1, held or not. -/
def Obligations.HangRaisesTimeoutAndHalts : Prop :=
  (∀ s : State, moveEnabled s .seqHang = s.seqRun) ∧
  ∀ (s : State) (i : Instr) (k : SlotKind), s.seqRun = true → currentSlot s = some i → slotKindOf i = some k →
    takeMove .seqHang s = .next { s with
      trace := s.trace ++ [.notCompleted k], intPend := s.intPend ||| 0x08#6, seqRun := false }

/-- R165: the arbitration-loss step, enabled exactly when the normal step is. -/
def Obligations.ArbitrationLossRaisesArblostAndHalts : Prop :=
  (∀ s : State, moveEnabled s .seqArbLoss = moveEnabled s .seqNormal) ∧
  (∀ (s : State) (i : Instr) (k : SlotKind), s.seqRun = true → currentSlot s = some i → slotHeld i s = false →
    slotKindOf i = some k →
    takeMove .seqArbLoss s = .next { s with
      trace := s.trace ++ [.notCompleted k], intPend := s.intPend ||| 0x20#6, seqRun := false })

/-! Taking an interrupt: the classifier. -/

/-- R184 with R180: IRQ has a step exactly when INT_PEND & INT_ENA is not 0; the classifier then takes that snapshot and
does one of abort, complete, service by fixed priority. -/
def Obligations.ClassifierFollowsThePriority : Prop :=
  (∀ s : State, moveEnabled s .irq = true ↔ s.intPend &&& s.intEna ≠ 0#6) ∧
  ∀ s : State, s.intPend &&& s.intEna ≠ 0#6 →
    let p := s.intPend &&& s.intEna
    takeMove .irq s = .next (
      if p.getLsbD 5 = true then abort .arbLost s
      else if p.getLsbD 3 = true then abort .timeout s
      else if p.getLsbD 2 = true then abort .nack s
      else if p.getLsbD 4 = true then complete s
      else service p s)

/-- R186: what an abort writes. BUF is left as it is but after a read that ends Timeout or ArbitrationLost, whose
destination then holds no value (spec/93_implementation_defined.md U1; the model's choice, notes/assumptions/9.md). -/
def Obligations.AbortWritesTheTerminalState : Prop :=
  ∀ (c : AbortCause) (s : State), ∃ m : Memory,
    abort c s = { s with
      seqRun := false
      trace := if s.busOwn then s.trace ++ [.released c] else s.trace
      busOwn := false
      cmdPtr := 0#6
      txFifo := []
      rxFifo := []
      tstate := match c with
        | .arbLost => .completedArbLost
        | .timeout => .completedTimeout
        | .nack => .completedNack
      intEna := 0#6
      intPend := 0#6
      sig := true
      buf := m } ∧
    ∀ a : Byte, bufGet m a =
      if c ≠ .nack ∧ s.opr.kind = .read ∧ a.toNat < s.opr.len.toNat then none else bufGet s.buf a

/-- R191: the drain moves every byte of RXFIFO to BUF, oldest first, from BUF[RXIDX] on; every other byte reads as
before, and nothing else changes. -/
def Obligations.DrainStoresOldestFirst : Prop :=
  ∀ s : State, s.rxIdx.toNat + s.rxFifo.length ≤ 31 →
    ∃ m : Memory, drain s = { s with
        buf := m, rxFifo := [], rxIdx := BitVec.ofNat 5 (s.rxIdx.toNat + s.rxFifo.length) } ∧
      (∀ j < s.rxFifo.length, bufGet m (BitVec.ofNat 8 (s.rxIdx.toNat + j)) = s.rxFifo[j]?) ∧
      (∀ a : Byte, (a.toNat < s.rxIdx.toNat ∨ s.rxIdx.toNat + s.rxFifo.length ≤ a.toNat) →
        bufGet m a = bufGet s.buf a)

/-- R192: the feed pushes the next bytes of the TX stream until TXFIFO is full or the stream is exhausted, and nothing
else changes. -/
def Obligations.FeedPushesTheNextBytes : Prop :=
  ∀ s : State,
    let n := min (s.params.txDepth - s.txFifo.length) (s.txLen.toNat - s.txIdx.toNat)
    feed s = { s with
      txFifo := s.txFifo ++ (List.range n).map (fun j => txByte s (BitVec.ofNat 5 (s.txIdx.toNat + j)))
      txIdx := BitVec.ofNat 5 (s.txIdx.toNat + n) }

/-- R188: complete drains RXFIFO, records CompletedOk, clears the interrupt registers, releases the signal. -/
def Obligations.CompleteDrainsAndRecordsOk : Prop :=
  ∀ s : State, s.rxIdx.toNat + s.rxFifo.length ≤ 31 →
    ∃ m : Memory, complete s = { s with
        buf := m
        rxFifo := []
        rxIdx := BitVec.ofNat 5 (s.rxIdx.toNat + s.rxFifo.length)
        tstate := .completedOk
        intEna := 0#6
        intPend := 0#6
        sig := true } ∧
      (∀ j < s.rxFifo.length, bufGet m (BitVec.ofNat 8 (s.rxIdx.toNat + j)) = s.rxFifo[j]?) ∧
      (∀ a : Byte, (a.toNat < s.rxIdx.toNat ∨ s.rxIdx.toNat + s.rxFifo.length ≤ a.toNat) →
        bufGet m a = bufGet s.buf a)

/-- R190: service drains where RXF is in the snapshot, feeds where TXE is, clears those two bits where they were in the
snapshot, and writes nothing of HOST's side, CMDPTR, SEQ_RUN, BUSOWN or TRACE. -/
def Obligations.ServiceFeedsAndDrains : Prop :=
  ∀ (p : BitVec 6) (s : State),
    let r := if p.getLsbD 1 = true then drain s else s
    let t := service p s
    SameHostSide s t ∧ t.cmdPtr = s.cmdPtr ∧ t.seqRun = s.seqRun ∧ t.busOwn = s.busOwn ∧ t.trace = s.trace ∧
    t.intPend = s.intPend &&& ~~~(p &&& 0x03#6) ∧
    t.buf = r.buf ∧ t.rxIdx = r.rxIdx ∧ t.rxFifo = r.rxFifo ∧
    t.txFifo = (if p.getLsbD 0 = true then (feed r).txFifo else s.txFifo) ∧
    t.txIdx = (if p.getLsbD 0 = true then (feed r).txIdx else s.txIdx)

/-- R264, R267: taking an interrupt leaves HOST's state (HPC, HWAIT, RESP), the command buffer and the operand latch as
they are; nothing is saved and nothing restored. -/
def Obligations.InterruptSavesNothing : Prop :=
  ∀ s : State,
    let t := takeInterrupt s
    t.hpc = s.hpc ∧ t.hwait = s.hwait ∧ t.resp = s.resp ∧ t.cmd = s.cmd ∧ t.cmdLen = s.cmdLen ∧ t.opr = s.opr ∧
    t.txLen = s.txLen ∧ t.params = s.params ∧ t.prog = s.prog ∧ t.inputs = s.inputs ∧ t.draws = s.draws

/-- R310 (c): the classifier leaves no interrupt request behind, so between two SEQ steps it takes at most one step. -/
def Obligations.ClassifierServesEveryPendingEvent : Prop :=
  ∀ s : State, Inv s → irqLine s = true → irqLine (takeInterrupt s) = false

/-! The machine as a whole. -/

/-- A step runs the decoded instruction: HOST's word at HPC and SEQ's slot at CMDPTR; what the step adds around `exec` is
that the input it read is consumed (notes/assumptions/1.md). -/
def Obligations.StepRunsTheDecodedInstruction : Prop :=
  (∀ (s : State) (w : Word) (i : Instr), s.hwait = false → (currentInput s).move = .host →
    s.prog[s.hpc]? = some w → decodeHcmd w = .ok i → step s = consumed (exec i s)) ∧
  (∀ (s : State) (w : Word) (i : Instr), s.seqRun = true → (currentInput s).move = .seqNormal →
    s.cmdPtr < s.cmdLen → s.cmd[s.cmdPtr.toNat]? = some w → decodeSlot w = .ok i → slotHeld i s = false →
    step s = consumed (exec i s))

/-- R6: any enabled agent may take the next step, and no other can: every next state is an enabled step's, and every
enabled step is taken when the input names it (the inputs are the model's, notes/assumptions/1.md, 2.md). -/
def Obligations.AnyEnabledStepMayBeTaken : Prop :=
  (∀ s t : State, step s = .next t →
    ∃ m u, moveEnabled s m = true ∧ takeMove m s = .next u ∧ t = consumeInput u) ∧
  (∀ (s : State) (m : Move), moveEnabled s m = true → (currentInput s).move = m → step s = consumed (takeMove m s))

/-- R290: the reset state, for every parameters and host program. -/
def Obligations.ResetStateIsAsStated : Prop :=
  ∀ (p : Params) (prog : List Word),
    let s := State.resetWith p prog
    s.tstate = .idle ∧ s.sig = false ∧ s.intEna = 0#6 ∧ s.intPend = 0#6 ∧ irqLine s = false ∧ s.cmdLen = 0#6 ∧
    s.cmdPtr = 0#6 ∧ s.seqRun = false ∧ s.busOwn = false ∧ s.txFifo = [] ∧ s.rxFifo = [] ∧ s.txIdx = 0#5 ∧
    s.txLen = 0#5 ∧ s.rxIdx = 0#5 ∧ respValid s.resp = false ∧ (∀ a : Byte, bufGet s.buf a = none) ∧
    s.hwait = false ∧ s.hpc = 0 ∧ s.trace = [] ∧ s.params = p ∧ s.prog = prog

/-- R291: the invariant holds at reset, for every parameters with depths of 1 or more, every host program and all
inputs; the depths of 1 in `State.reset` are the model's choice, notes/assumptions/4.md. -/
def Obligations.ResetMeetsTheInvariant : Prop :=
  Inv State.reset ∧
  ∀ (p : Params) (prog : List Word) (ins : List Input), p.wf → Inv { State.resetWith p prog with inputs := ins }

/-- R291: every step keeps the invariant. -/
def Obligations.StepKeepsTheInvariant : Prop :=
  ∀ s t : State, Inv s → step s = .next t → Inv t

/-- R310: every step of every agent lowers the work left. -/
def Obligations.EveryStepLowersTheWork : Prop :=
  ∀ s t : State, Inv s → step s = .next t → work t < work s

/-- R310: every run stops, within a number of steps fixed by the state it starts in, whatever the inputs. -/
def Obligations.EveryRunStops : Prop :=
  ∀ (s : State) (n : Nat), Inv s → work s < n → ∀ t, Host.Core.run Sys2Proof.core n s ≠ .next t

/-- R312: a state that meets the invariant is never stuck, and it stops with endOfRun exactly when it is final (the two stops
are the model's, notes/assumptions/11.md). -/
def Obligations.OnlyFinalStatesStop : Prop :=
  ∀ s : State, Inv s → step s ≠ .fault .stuck ∧ (step s = .fault .endOfRun ↔ isFinal s = true)

/-- R168: whenever SEQ's normal step is held, the interrupt request is up, and taking it lifts the hold. -/
def Obligations.HeldSlotIsLiftedByTheInterrupt : Prop :=
  ∀ (s : State) (i : Instr), Inv s → s.seqRun = true → currentSlot s = some i → slotHeld i s = true →
    irqLine s = true ∧ slotHeld i (takeInterrupt s) = false

/-- R153, R37, R79, R180: SEQ runs only in a transaction, at an executable slot below CMDLEN, with no terminal event
pending; outside a transaction only HOST has a step. -/
def Obligations.RunningSequencerHasASlot : Prop :=
  (∀ s : State, Inv s → s.seqRun = true →
    s.tstate = .inProgress ∧ s.cmdPtr < s.cmdLen ∧ s.intPend &&& 0x3C#6 = 0#6 ∧
    ∃ i, currentSlot s = some i ∧ i.isHostOp = false ∧ (slotsOf s)[s.cmdPtr.toNat]? = some i) ∧
  (∀ (s : State) (m : Move), Inv s → s.tstate ≠ .inProgress → moveEnabled s m = true → m = .host)

/-- R194, R25: the transition table of TSTATE: an arm step of a valid request, or the terminal step of a transaction by the
terminal event pending with the highest priority; no other step writes it. -/
def Obligations.TransactionStateFollowsTheTable : Prop :=
  ∀ s t : State, Inv s → step s = .next t →
    let p := s.intPend &&& s.intEna
    t.tstate = s.tstate ∨
    (s.tstate ≠ .inProgress ∧ t.tstate = .inProgress ∧ validLen t.opr.kind t.opr.len = true ∧ t.sig = false ∧
      t.intEna = 0x3F#6 ∧ t.intPend = 0#6 ∧ t.seqRun = true) ∨
    (s.tstate = .inProgress ∧ p &&& 0x3C#6 ≠ 0#6 ∧
      t.tstate = (if p.getLsbD 5 = true then .completedArbLost else if p.getLsbD 3 = true then .completedTimeout
        else if p.getLsbD 2 = true then .completedNack else .completedOk) ∧
      t.sig = true ∧ t.intEna = 0#6 ∧ t.intPend = 0#6)

/-- R28, R198: the Completion Signal is given only by the step of the classifier that ends a transaction, and taken only by
a step of HOST. -/
def Obligations.SignalIsGivenOnlyByTerminalSteps : Prop :=
  ∀ s t : State, Inv s → step s = .next t →
    (s.sig = false → t.sig = true →
      s.tstate = .inProgress ∧ completed t.tstate = true ∧ irqLine s = true ∧ t = consumeInput (takeInterrupt s)) ∧
    (s.sig = true → t.sig = false →
      moveEnabled s .host = true ∧ ∃ u, takeMove .host s = .next u ∧ t = consumeInput u)

/-- R34, R37: no step writes the command buffer, CMDLEN or the operand latch while SEQ runs. -/
def Obligations.CommandBufferIsStableWhileRunning : Prop :=
  ∀ s t : State, Inv s → s.seqRun = true → step s = .next t →
    t.cmd = s.cmd ∧ t.cmdLen = s.cmdLen ∧ t.opr = s.opr ∧ t.txLen = s.txLen

/-- R79, R191: during a transaction BUF changes only in a step of the classifier of a read, and never at or above LEN (an abort
takes the values of a failed read's destination away, notes/assumptions/9.md). -/
def Obligations.BufferBelongsToTheTransaction : Prop :=
  ∀ s t : State, Inv s → s.tstate = .inProgress → step s = .next t → ∀ a : Byte,
    bufGet t.buf a ≠ bufGet s.buf a →
      irqLine s = true ∧ t = consumeInput (takeInterrupt s) ∧ s.opr.kind = .read ∧ a.toNat < s.opr.len.toNat

/-- R197: a terminal step leaves the block ready for the next transaction. -/
def Obligations.TerminalStepLeavesTheBlockReady : Prop :=
  ∀ s t : State, Inv s → step s = .next t → s.tstate = .inProgress → t.tstate ≠ .inProgress →
    completed t.tstate = true ∧ t.sig = true ∧ t.seqRun = false ∧ t.intEna = 0#6 ∧ t.intPend = 0#6 ∧
    t.txFifo = [] ∧ t.rxFifo = [] ∧ t.busOwn = false ∧ irqLine t = false ∧ t.resp = s.resp ∧ t.hpc = s.hpc

/-- R196: a transaction that ends Nack received no byte, and its last step leaves every byte of BUF as it was. -/
def Obligations.NackLeavesTheBuffer : Prop :=
  ∀ s t : State, Inv s → step s = .next t → s.tstate = .inProgress → t.tstate = .completedNack →
    s.rxIdx = 0#5 ∧ s.rxFifo = [] ∧ ∀ a : Byte, bufGet t.buf a = bufGet s.buf a

/-- R84: the bytes a read receives reach BUF, through RXFIFO, in the order of the bus: a step that goes on with the
transaction or completes it adds to the stream exactly the bytes it adds to TRACE. -/
def Obligations.ReceivedBytesKeepTheirOrder : Prop :=
  ∀ s t : State, Inv s → s.tstate = .inProgress → s.opr.kind = .read → step s = .next t →
    (t.tstate = .inProgress ∨ t.tstate = .completedOk) →
    ∃ d, t.trace = s.trace ++ d ∧ readStream t = readStream s ++ (receivedBytes d).map some

/-- R195: when a read completes, BUF[0 .. LEN-1] holds the stream received, LEN bytes, and no byte at LEN or above
changed. -/
def Obligations.CompletedReadFillsTheBuffer : Prop :=
  ∀ s t : State, Inv s → s.tstate = .inProgress → s.opr.kind = .read → step s = .next t →
    t.tstate = .completedOk →
    t.rxIdx.toNat = s.opr.len.toNat ∧ bufTaken t.buf s.opr.len.toNat = readStream s ∧
    (readStream s).length = s.opr.len.toNat ∧
    ∀ a : Byte, s.opr.len.toNat ≤ a.toNat → bufGet t.buf a = bufGet s.buf a

/-- R84: TXFIFO always holds the next bytes of the TX stream in order, whatever the depth and the interleaving, in a
transaction whose payload bytes all hold a value (R297). -/
def Obligations.TransmitFifoHoldsTheStream : Prop :=
  ∀ s t : State, Inv s → (s.tstate = .inProgress → PayloadWritten s → TxOrdered s) → step s = .next t →
    (t.tstate = .inProgress → PayloadWritten t → TxOrdered t)

/-- R84: the (i+1)-th WRITE slot transmits byte i of the TX stream. -/
def Obligations.WriteSlotSendsItsStreamByte : Prop :=
  ∀ (s t : State) (k : Bool), Inv s → s.seqRun = true → TxOrdered s → currentSlot s = some (.write k) →
    s.txFifo ≠ [] → exec (.write k) s = .next t →
    t.trace = s.trace ++ [.written (txByte s (BitVec.ofNat 5 (writesDone s))) (currentInput s).ack]

/-- R47, R51: RESP is written, with VALID = 1 and its zero bits zero, exactly when HPC advances, by 1. -/
def Obligations.ResponseIsWrittenWhenHpcAdvances : Prop :=
  ∀ s t : State, step s = .next t →
    (t.hpc = s.hpc ∧ t.resp = s.resp) ∨
    (t.hpc = s.hpc + 1 ∧ respValid t.resp = true ∧ respWellFormed t.resp = true)

/-- R8, R9, R21, R52: no step writes the parameters or the host program, TRACE is only added to, one event at a time, and
every step consumes one input (notes/assumptions/1.md). -/
def Obligations.EveryStepFrame : Prop :=
  ∀ s t : State, step s = .next t →
    t.params = s.params ∧ t.prog = s.prog ∧ t.inputs = s.inputs.tail ∧ t.draws = s.draws + 1 ∧
    (t.trace = s.trace ∨ ∃ e, t.trace = s.trace ++ [e])

/-- R270, R294, R296: a step of one controller is a step of the one-controller machine and changes no other controller; the
interrupt of hardware unit u is the classifier's step of the controller whose CTRL_INDEX is u, and of no other; neither
changes the dispatch table. Construction adds a controller in its reset state that the table leads to. How the platform and
the table are held, and that the entry of a unit is the first controller with its CTRL_INDEX, is the model's choice
(notes/assumptions/17.md); that construction fails exactly when the unit is owned is too (notes/assumptions/20.md). -/
def Obligations.ControllersShareNothing : Prop :=
  (∀ (p q : Platform) (k : Nat), platformStep p k = some (.next q) →
    (∃ s t, p.units[k]? = some s ∧ step s = .next t ∧ q.units[k]? = some t) ∧
    (∀ j, j ≠ k → q.units[j]? = p.units[j]?) ∧ ∀ u, dispatchUnit q u = dispatchUnit p u) ∧
  (∀ (p q : Platform) (u : Nat), platformInterrupt p u = some q →
    ∃ k s, dispatchUnit p u = some k ∧ p.units[k]? = some s ∧ s.params.ctrlIndex = u ∧ irqLine s = true ∧
      q.units[k]? = some (consumeInput (takeInterrupt s)) ∧ (∀ j, j ≠ k → q.units[j]? = p.units[j]?) ∧
      ∀ v, dispatchUnit q v = dispatchUnit p v) ∧
  (∀ (q : Params) (prog : List Word) (ins : List Input) (p : Platform),
    (construct q prog ins p = none ↔ ∃ s ∈ p.units, s.params.ctrlIndex = q.ctrlIndex) ∧
    ∀ r, construct q prog ins p = some r →
      r.units = p.units ++ [{ State.resetWith q prog with inputs := ins }] ∧
      dispatchUnit r q.ctrlIndex = some p.units.length)

/-- R270: no two controllers own one hardware unit: true with none constructed, and kept by construction, by every step and
by every interrupt; then the dispatch table leads a unit to a controller exactly when its CTRL_INDEX is that unit, and an
interrupt request of that controller always invokes its classifier (the form of the table is the model's choice,
notes/assumptions/17.md). -/
def Obligations.ControllersOwnTheirUnits : Prop :=
  Platform.wf ⟨[]⟩ ∧
  (∀ (q : Params) (prog : List Word) (ins : List Input) (p r : Platform),
    p.wf → construct q prog ins p = some r → r.wf) ∧
  (∀ (p q : Platform) (k : Nat), p.wf → platformStep p k = some (.next q) → q.wf) ∧
  (∀ (p q : Platform) (u : Nat), p.wf → platformInterrupt p u = some q → q.wf) ∧
  (∀ (p : Platform) (k u : Nat), p.wf →
    (dispatchUnit p u = some k ↔ ∃ s, p.units[k]? = some s ∧ s.params.ctrlIndex = u)) ∧
  (∀ (p : Platform) (k : Nat) (s : State), p.wf → p.units[k]? = some s → irqLine s = true →
    ∃ q, platformInterrupt p s.params.ctrlIndex = some q ∧ q.units[k]? = some (consumeInput (takeInterrupt s)))
end

