-- ==== Sys2Proof/Laws/State.lean ====
section
/-!
SUPPORT. One lemma per field for each operation that writes State, so that no proof unfolds a record update.
-/
namespace Sys2Proof.Machine

/-! raiseEvent -/

@[simp] theorem raiseEvent_tstate (e : Event) (s : State) : (raiseEvent e s).tstate = s.tstate := rfl
@[simp] theorem raiseEvent_sig (e : Event) (s : State) : (raiseEvent e s).sig = s.sig := rfl
@[simp] theorem raiseEvent_intEna (e : Event) (s : State) : (raiseEvent e s).intEna = s.intEna := rfl
@[simp] theorem raiseEvent_intPend (e : Event) (s : State) : (raiseEvent e s).intPend = s.intPend ||| eventMask e := rfl
@[simp] theorem raiseEvent_cmd (e : Event) (s : State) : (raiseEvent e s).cmd = s.cmd := rfl
@[simp] theorem raiseEvent_cmdLen (e : Event) (s : State) : (raiseEvent e s).cmdLen = s.cmdLen := rfl
@[simp] theorem raiseEvent_cmdPtr (e : Event) (s : State) : (raiseEvent e s).cmdPtr = s.cmdPtr := rfl
@[simp] theorem raiseEvent_seqRun (e : Event) (s : State) : (raiseEvent e s).seqRun = s.seqRun := rfl
@[simp] theorem raiseEvent_busOwn (e : Event) (s : State) : (raiseEvent e s).busOwn = s.busOwn := rfl
@[simp] theorem raiseEvent_txFifo (e : Event) (s : State) : (raiseEvent e s).txFifo = s.txFifo := rfl
@[simp] theorem raiseEvent_rxFifo (e : Event) (s : State) : (raiseEvent e s).rxFifo = s.rxFifo := rfl
@[simp] theorem raiseEvent_txIdx (e : Event) (s : State) : (raiseEvent e s).txIdx = s.txIdx := rfl
@[simp] theorem raiseEvent_txLen (e : Event) (s : State) : (raiseEvent e s).txLen = s.txLen := rfl
@[simp] theorem raiseEvent_rxIdx (e : Event) (s : State) : (raiseEvent e s).rxIdx = s.rxIdx := rfl
@[simp] theorem raiseEvent_opr (e : Event) (s : State) : (raiseEvent e s).opr = s.opr := rfl
@[simp] theorem raiseEvent_resp (e : Event) (s : State) : (raiseEvent e s).resp = s.resp := rfl
@[simp] theorem raiseEvent_buf (e : Event) (s : State) : (raiseEvent e s).buf = s.buf := rfl
@[simp] theorem raiseEvent_hwait (e : Event) (s : State) : (raiseEvent e s).hwait = s.hwait := rfl
@[simp] theorem raiseEvent_hpc (e : Event) (s : State) : (raiseEvent e s).hpc = s.hpc := rfl
@[simp] theorem raiseEvent_trace (e : Event) (s : State) : (raiseEvent e s).trace = s.trace := rfl
@[simp] theorem raiseEvent_params (e : Event) (s : State) : (raiseEvent e s).params = s.params := rfl
@[simp] theorem raiseEvent_prog (e : Event) (s : State) : (raiseEvent e s).prog = s.prog := rfl
@[simp] theorem raiseEvent_inputs (e : Event) (s : State) : (raiseEvent e s).inputs = s.inputs := rfl
@[simp] theorem raiseEvent_draws (e : Event) (s : State) : (raiseEvent e s).draws = s.draws := rfl

/-! emit -/

@[simp] theorem emit_tstate (e : BusEvent) (s : State) : (emit e s).tstate = s.tstate := rfl
@[simp] theorem emit_sig (e : BusEvent) (s : State) : (emit e s).sig = s.sig := rfl
@[simp] theorem emit_intEna (e : BusEvent) (s : State) : (emit e s).intEna = s.intEna := rfl
@[simp] theorem emit_intPend (e : BusEvent) (s : State) : (emit e s).intPend = s.intPend := rfl
@[simp] theorem emit_cmd (e : BusEvent) (s : State) : (emit e s).cmd = s.cmd := rfl
@[simp] theorem emit_cmdLen (e : BusEvent) (s : State) : (emit e s).cmdLen = s.cmdLen := rfl
@[simp] theorem emit_cmdPtr (e : BusEvent) (s : State) : (emit e s).cmdPtr = s.cmdPtr := rfl
@[simp] theorem emit_seqRun (e : BusEvent) (s : State) : (emit e s).seqRun = s.seqRun := rfl
@[simp] theorem emit_busOwn (e : BusEvent) (s : State) : (emit e s).busOwn = s.busOwn := rfl
@[simp] theorem emit_txFifo (e : BusEvent) (s : State) : (emit e s).txFifo = s.txFifo := rfl
@[simp] theorem emit_rxFifo (e : BusEvent) (s : State) : (emit e s).rxFifo = s.rxFifo := rfl
@[simp] theorem emit_txIdx (e : BusEvent) (s : State) : (emit e s).txIdx = s.txIdx := rfl
@[simp] theorem emit_txLen (e : BusEvent) (s : State) : (emit e s).txLen = s.txLen := rfl
@[simp] theorem emit_rxIdx (e : BusEvent) (s : State) : (emit e s).rxIdx = s.rxIdx := rfl
@[simp] theorem emit_opr (e : BusEvent) (s : State) : (emit e s).opr = s.opr := rfl
@[simp] theorem emit_resp (e : BusEvent) (s : State) : (emit e s).resp = s.resp := rfl
@[simp] theorem emit_buf (e : BusEvent) (s : State) : (emit e s).buf = s.buf := rfl
@[simp] theorem emit_hwait (e : BusEvent) (s : State) : (emit e s).hwait = s.hwait := rfl
@[simp] theorem emit_hpc (e : BusEvent) (s : State) : (emit e s).hpc = s.hpc := rfl
@[simp] theorem emit_trace (e : BusEvent) (s : State) : (emit e s).trace = s.trace ++ [e] := rfl
@[simp] theorem emit_params (e : BusEvent) (s : State) : (emit e s).params = s.params := rfl
@[simp] theorem emit_prog (e : BusEvent) (s : State) : (emit e s).prog = s.prog := rfl
@[simp] theorem emit_inputs (e : BusEvent) (s : State) : (emit e s).inputs = s.inputs := rfl
@[simp] theorem emit_draws (e : BusEvent) (s : State) : (emit e s).draws = s.draws := rfl

/-! respond -/

@[simp] theorem respond_tstate (c : Code) (d : Byte) (s : State) : (respond c d s).tstate = s.tstate := rfl
@[simp] theorem respond_sig (c : Code) (d : Byte) (s : State) : (respond c d s).sig = s.sig := rfl
@[simp] theorem respond_intEna (c : Code) (d : Byte) (s : State) : (respond c d s).intEna = s.intEna := rfl
@[simp] theorem respond_intPend (c : Code) (d : Byte) (s : State) : (respond c d s).intPend = s.intPend := rfl
@[simp] theorem respond_cmd (c : Code) (d : Byte) (s : State) : (respond c d s).cmd = s.cmd := rfl
@[simp] theorem respond_cmdLen (c : Code) (d : Byte) (s : State) : (respond c d s).cmdLen = s.cmdLen := rfl
@[simp] theorem respond_cmdPtr (c : Code) (d : Byte) (s : State) : (respond c d s).cmdPtr = s.cmdPtr := rfl
@[simp] theorem respond_seqRun (c : Code) (d : Byte) (s : State) : (respond c d s).seqRun = s.seqRun := rfl
@[simp] theorem respond_busOwn (c : Code) (d : Byte) (s : State) : (respond c d s).busOwn = s.busOwn := rfl
@[simp] theorem respond_txFifo (c : Code) (d : Byte) (s : State) : (respond c d s).txFifo = s.txFifo := rfl
@[simp] theorem respond_rxFifo (c : Code) (d : Byte) (s : State) : (respond c d s).rxFifo = s.rxFifo := rfl
@[simp] theorem respond_txIdx (c : Code) (d : Byte) (s : State) : (respond c d s).txIdx = s.txIdx := rfl
@[simp] theorem respond_txLen (c : Code) (d : Byte) (s : State) : (respond c d s).txLen = s.txLen := rfl
@[simp] theorem respond_rxIdx (c : Code) (d : Byte) (s : State) : (respond c d s).rxIdx = s.rxIdx := rfl
@[simp] theorem respond_opr (c : Code) (d : Byte) (s : State) : (respond c d s).opr = s.opr := rfl
@[simp] theorem respond_resp (c : Code) (d : Byte) (s : State) : (respond c d s).resp = respWord c d := rfl
@[simp] theorem respond_buf (c : Code) (d : Byte) (s : State) : (respond c d s).buf = s.buf := rfl
@[simp] theorem respond_hwait (c : Code) (d : Byte) (s : State) : (respond c d s).hwait = s.hwait := rfl
@[simp] theorem respond_hpc (c : Code) (d : Byte) (s : State) : (respond c d s).hpc = s.hpc := rfl
@[simp] theorem respond_trace (c : Code) (d : Byte) (s : State) : (respond c d s).trace = s.trace := rfl
@[simp] theorem respond_params (c : Code) (d : Byte) (s : State) : (respond c d s).params = s.params := rfl
@[simp] theorem respond_prog (c : Code) (d : Byte) (s : State) : (respond c d s).prog = s.prog := rfl
@[simp] theorem respond_inputs (c : Code) (d : Byte) (s : State) : (respond c d s).inputs = s.inputs := rfl
@[simp] theorem respond_draws (c : Code) (d : Byte) (s : State) : (respond c d s).draws = s.draws := rfl

/-! finishHostOp -/

@[simp] theorem finishHostOp_tstate (c : Code) (d : Byte) (s : State) : (finishHostOp c d s).tstate = s.tstate := rfl
@[simp] theorem finishHostOp_sig (c : Code) (d : Byte) (s : State) : (finishHostOp c d s).sig = s.sig := rfl
@[simp] theorem finishHostOp_intEna (c : Code) (d : Byte) (s : State) : (finishHostOp c d s).intEna = s.intEna := rfl
@[simp] theorem finishHostOp_intPend (c : Code) (d : Byte) (s : State) : (finishHostOp c d s).intPend = s.intPend := rfl
@[simp] theorem finishHostOp_cmd (c : Code) (d : Byte) (s : State) : (finishHostOp c d s).cmd = s.cmd := rfl
@[simp] theorem finishHostOp_cmdLen (c : Code) (d : Byte) (s : State) : (finishHostOp c d s).cmdLen = s.cmdLen := rfl
@[simp] theorem finishHostOp_cmdPtr (c : Code) (d : Byte) (s : State) : (finishHostOp c d s).cmdPtr = s.cmdPtr := rfl
@[simp] theorem finishHostOp_seqRun (c : Code) (d : Byte) (s : State) : (finishHostOp c d s).seqRun = s.seqRun := rfl
@[simp] theorem finishHostOp_busOwn (c : Code) (d : Byte) (s : State) : (finishHostOp c d s).busOwn = s.busOwn := rfl
@[simp] theorem finishHostOp_txFifo (c : Code) (d : Byte) (s : State) : (finishHostOp c d s).txFifo = s.txFifo := rfl
@[simp] theorem finishHostOp_rxFifo (c : Code) (d : Byte) (s : State) : (finishHostOp c d s).rxFifo = s.rxFifo := rfl
@[simp] theorem finishHostOp_txIdx (c : Code) (d : Byte) (s : State) : (finishHostOp c d s).txIdx = s.txIdx := rfl
@[simp] theorem finishHostOp_txLen (c : Code) (d : Byte) (s : State) : (finishHostOp c d s).txLen = s.txLen := rfl
@[simp] theorem finishHostOp_rxIdx (c : Code) (d : Byte) (s : State) : (finishHostOp c d s).rxIdx = s.rxIdx := rfl
@[simp] theorem finishHostOp_opr (c : Code) (d : Byte) (s : State) : (finishHostOp c d s).opr = s.opr := rfl
@[simp] theorem finishHostOp_resp (c : Code) (d : Byte) (s : State) : (finishHostOp c d s).resp = respWord c d := rfl
@[simp] theorem finishHostOp_buf (c : Code) (d : Byte) (s : State) : (finishHostOp c d s).buf = s.buf := rfl
@[simp] theorem finishHostOp_hwait (c : Code) (d : Byte) (s : State) : (finishHostOp c d s).hwait = s.hwait := rfl
@[simp] theorem finishHostOp_hpc (c : Code) (d : Byte) (s : State) : (finishHostOp c d s).hpc = s.hpc + 1 := rfl
@[simp] theorem finishHostOp_trace (c : Code) (d : Byte) (s : State) : (finishHostOp c d s).trace = s.trace := rfl
@[simp] theorem finishHostOp_params (c : Code) (d : Byte) (s : State) : (finishHostOp c d s).params = s.params := rfl
@[simp] theorem finishHostOp_prog (c : Code) (d : Byte) (s : State) : (finishHostOp c d s).prog = s.prog := rfl
@[simp] theorem finishHostOp_inputs (c : Code) (d : Byte) (s : State) : (finishHostOp c d s).inputs = s.inputs := rfl
@[simp] theorem finishHostOp_draws (c : Code) (d : Byte) (s : State) : (finishHostOp c d s).draws = s.draws := rfl

/-! consumeInput -/

@[simp] theorem consumeInput_tstate (s : State) : (consumeInput s).tstate = s.tstate := rfl
@[simp] theorem consumeInput_sig (s : State) : (consumeInput s).sig = s.sig := rfl
@[simp] theorem consumeInput_intEna (s : State) : (consumeInput s).intEna = s.intEna := rfl
@[simp] theorem consumeInput_intPend (s : State) : (consumeInput s).intPend = s.intPend := rfl
@[simp] theorem consumeInput_cmd (s : State) : (consumeInput s).cmd = s.cmd := rfl
@[simp] theorem consumeInput_cmdLen (s : State) : (consumeInput s).cmdLen = s.cmdLen := rfl
@[simp] theorem consumeInput_cmdPtr (s : State) : (consumeInput s).cmdPtr = s.cmdPtr := rfl
@[simp] theorem consumeInput_seqRun (s : State) : (consumeInput s).seqRun = s.seqRun := rfl
@[simp] theorem consumeInput_busOwn (s : State) : (consumeInput s).busOwn = s.busOwn := rfl
@[simp] theorem consumeInput_txFifo (s : State) : (consumeInput s).txFifo = s.txFifo := rfl
@[simp] theorem consumeInput_rxFifo (s : State) : (consumeInput s).rxFifo = s.rxFifo := rfl
@[simp] theorem consumeInput_txIdx (s : State) : (consumeInput s).txIdx = s.txIdx := rfl
@[simp] theorem consumeInput_txLen (s : State) : (consumeInput s).txLen = s.txLen := rfl
@[simp] theorem consumeInput_rxIdx (s : State) : (consumeInput s).rxIdx = s.rxIdx := rfl
@[simp] theorem consumeInput_opr (s : State) : (consumeInput s).opr = s.opr := rfl
@[simp] theorem consumeInput_resp (s : State) : (consumeInput s).resp = s.resp := rfl
@[simp] theorem consumeInput_buf (s : State) : (consumeInput s).buf = s.buf := rfl
@[simp] theorem consumeInput_hwait (s : State) : (consumeInput s).hwait = s.hwait := rfl
@[simp] theorem consumeInput_hpc (s : State) : (consumeInput s).hpc = s.hpc := rfl
@[simp] theorem consumeInput_trace (s : State) : (consumeInput s).trace = s.trace := rfl
@[simp] theorem consumeInput_params (s : State) : (consumeInput s).params = s.params := rfl
@[simp] theorem consumeInput_prog (s : State) : (consumeInput s).prog = s.prog := rfl
@[simp] theorem consumeInput_inputs (s : State) : (consumeInput s).inputs = s.inputs.tail := rfl
@[simp] theorem consumeInput_draws (s : State) : (consumeInput s).draws = s.draws + 1 := rfl

/-! haltWith -/

@[simp] theorem haltWith_tstate (e : Event) (s : State) : (haltWith e s).tstate = s.tstate := rfl
@[simp] theorem haltWith_sig (e : Event) (s : State) : (haltWith e s).sig = s.sig := rfl
@[simp] theorem haltWith_intEna (e : Event) (s : State) : (haltWith e s).intEna = s.intEna := rfl
@[simp] theorem haltWith_intPend (e : Event) (s : State) : (haltWith e s).intPend = s.intPend ||| eventMask e := rfl
@[simp] theorem haltWith_cmd (e : Event) (s : State) : (haltWith e s).cmd = s.cmd := rfl
@[simp] theorem haltWith_cmdLen (e : Event) (s : State) : (haltWith e s).cmdLen = s.cmdLen := rfl
@[simp] theorem haltWith_cmdPtr (e : Event) (s : State) : (haltWith e s).cmdPtr = s.cmdPtr := rfl
@[simp] theorem haltWith_seqRun (e : Event) (s : State) : (haltWith e s).seqRun = false := rfl
@[simp] theorem haltWith_busOwn (e : Event) (s : State) : (haltWith e s).busOwn = s.busOwn := rfl
@[simp] theorem haltWith_txFifo (e : Event) (s : State) : (haltWith e s).txFifo = s.txFifo := rfl
@[simp] theorem haltWith_rxFifo (e : Event) (s : State) : (haltWith e s).rxFifo = s.rxFifo := rfl
@[simp] theorem haltWith_txIdx (e : Event) (s : State) : (haltWith e s).txIdx = s.txIdx := rfl
@[simp] theorem haltWith_txLen (e : Event) (s : State) : (haltWith e s).txLen = s.txLen := rfl
@[simp] theorem haltWith_rxIdx (e : Event) (s : State) : (haltWith e s).rxIdx = s.rxIdx := rfl
@[simp] theorem haltWith_opr (e : Event) (s : State) : (haltWith e s).opr = s.opr := rfl
@[simp] theorem haltWith_resp (e : Event) (s : State) : (haltWith e s).resp = s.resp := rfl
@[simp] theorem haltWith_buf (e : Event) (s : State) : (haltWith e s).buf = s.buf := rfl
@[simp] theorem haltWith_hwait (e : Event) (s : State) : (haltWith e s).hwait = s.hwait := rfl
@[simp] theorem haltWith_hpc (e : Event) (s : State) : (haltWith e s).hpc = s.hpc := rfl
@[simp] theorem haltWith_trace (e : Event) (s : State) : (haltWith e s).trace = s.trace := rfl
@[simp] theorem haltWith_params (e : Event) (s : State) : (haltWith e s).params = s.params := rfl
@[simp] theorem haltWith_prog (e : Event) (s : State) : (haltWith e s).prog = s.prog := rfl
@[simp] theorem haltWith_inputs (e : Event) (s : State) : (haltWith e s).inputs = s.inputs := rfl
@[simp] theorem haltWith_draws (e : Event) (s : State) : (haltWith e s).draws = s.draws := rfl

/-! feed -/

@[simp] theorem feed_tstate (s : State) : (feed s).tstate = s.tstate := rfl
@[simp] theorem feed_sig (s : State) : (feed s).sig = s.sig := rfl
@[simp] theorem feed_intEna (s : State) : (feed s).intEna = s.intEna := rfl
@[simp] theorem feed_intPend (s : State) : (feed s).intPend = s.intPend := rfl
@[simp] theorem feed_cmd (s : State) : (feed s).cmd = s.cmd := rfl
@[simp] theorem feed_cmdLen (s : State) : (feed s).cmdLen = s.cmdLen := rfl
@[simp] theorem feed_cmdPtr (s : State) : (feed s).cmdPtr = s.cmdPtr := rfl
@[simp] theorem feed_seqRun (s : State) : (feed s).seqRun = s.seqRun := rfl
@[simp] theorem feed_busOwn (s : State) : (feed s).busOwn = s.busOwn := rfl
@[simp] theorem feed_txFifo (s : State) : (feed s).txFifo = (feedResult s).1 := rfl
@[simp] theorem feed_rxFifo (s : State) : (feed s).rxFifo = s.rxFifo := rfl
@[simp] theorem feed_txIdx (s : State) : (feed s).txIdx = (feedResult s).2 := rfl
@[simp] theorem feed_txLen (s : State) : (feed s).txLen = s.txLen := rfl
@[simp] theorem feed_rxIdx (s : State) : (feed s).rxIdx = s.rxIdx := rfl
@[simp] theorem feed_opr (s : State) : (feed s).opr = s.opr := rfl
@[simp] theorem feed_resp (s : State) : (feed s).resp = s.resp := rfl
@[simp] theorem feed_buf (s : State) : (feed s).buf = s.buf := rfl
@[simp] theorem feed_hwait (s : State) : (feed s).hwait = s.hwait := rfl
@[simp] theorem feed_hpc (s : State) : (feed s).hpc = s.hpc := rfl
@[simp] theorem feed_trace (s : State) : (feed s).trace = s.trace := rfl
@[simp] theorem feed_params (s : State) : (feed s).params = s.params := rfl
@[simp] theorem feed_prog (s : State) : (feed s).prog = s.prog := rfl
@[simp] theorem feed_inputs (s : State) : (feed s).inputs = s.inputs := rfl
@[simp] theorem feed_draws (s : State) : (feed s).draws = s.draws := rfl

/-! drain -/

@[simp] theorem drain_tstate (s : State) : (drain s).tstate = s.tstate := rfl
@[simp] theorem drain_sig (s : State) : (drain s).sig = s.sig := rfl
@[simp] theorem drain_intEna (s : State) : (drain s).intEna = s.intEna := rfl
@[simp] theorem drain_intPend (s : State) : (drain s).intPend = s.intPend := rfl
@[simp] theorem drain_cmd (s : State) : (drain s).cmd = s.cmd := rfl
@[simp] theorem drain_cmdLen (s : State) : (drain s).cmdLen = s.cmdLen := rfl
@[simp] theorem drain_cmdPtr (s : State) : (drain s).cmdPtr = s.cmdPtr := rfl
@[simp] theorem drain_seqRun (s : State) : (drain s).seqRun = s.seqRun := rfl
@[simp] theorem drain_busOwn (s : State) : (drain s).busOwn = s.busOwn := rfl
@[simp] theorem drain_txFifo (s : State) : (drain s).txFifo = s.txFifo := rfl
@[simp] theorem drain_rxFifo (s : State) : (drain s).rxFifo = [] := rfl
@[simp] theorem drain_txIdx (s : State) : (drain s).txIdx = s.txIdx := rfl
@[simp] theorem drain_txLen (s : State) : (drain s).txLen = s.txLen := rfl
@[simp] theorem drain_rxIdx (s : State) : (drain s).rxIdx = (drainLoop s.rxFifo s.rxIdx s.buf).2 := rfl
@[simp] theorem drain_opr (s : State) : (drain s).opr = s.opr := rfl
@[simp] theorem drain_resp (s : State) : (drain s).resp = s.resp := rfl
@[simp] theorem drain_buf (s : State) : (drain s).buf = (drainLoop s.rxFifo s.rxIdx s.buf).1 := rfl
@[simp] theorem drain_hwait (s : State) : (drain s).hwait = s.hwait := rfl
@[simp] theorem drain_hpc (s : State) : (drain s).hpc = s.hpc := rfl
@[simp] theorem drain_trace (s : State) : (drain s).trace = s.trace := rfl
@[simp] theorem drain_params (s : State) : (drain s).params = s.params := rfl
@[simp] theorem drain_prog (s : State) : (drain s).prog = s.prog := rfl
@[simp] theorem drain_inputs (s : State) : (drain s).inputs = s.inputs := rfl
@[simp] theorem drain_draws (s : State) : (drain s).draws = s.draws := rfl

/-! endTransaction -/

@[simp] theorem endTransaction_tstate (t : TState) (s : State) : (endTransaction t s).tstate = t := rfl
@[simp] theorem endTransaction_sig (t : TState) (s : State) : (endTransaction t s).sig = true := rfl
@[simp] theorem endTransaction_intEna (t : TState) (s : State) : (endTransaction t s).intEna = 0#6 := rfl
@[simp] theorem endTransaction_intPend (t : TState) (s : State) : (endTransaction t s).intPend = 0#6 := rfl
@[simp] theorem endTransaction_cmd (t : TState) (s : State) : (endTransaction t s).cmd = s.cmd := rfl
@[simp] theorem endTransaction_cmdLen (t : TState) (s : State) : (endTransaction t s).cmdLen = s.cmdLen := rfl
@[simp] theorem endTransaction_cmdPtr (t : TState) (s : State) : (endTransaction t s).cmdPtr = s.cmdPtr := rfl
@[simp] theorem endTransaction_seqRun (t : TState) (s : State) : (endTransaction t s).seqRun = s.seqRun := rfl
@[simp] theorem endTransaction_busOwn (t : TState) (s : State) : (endTransaction t s).busOwn = s.busOwn := rfl
@[simp] theorem endTransaction_txFifo (t : TState) (s : State) : (endTransaction t s).txFifo = s.txFifo := rfl
@[simp] theorem endTransaction_rxFifo (t : TState) (s : State) : (endTransaction t s).rxFifo = s.rxFifo := rfl
@[simp] theorem endTransaction_txIdx (t : TState) (s : State) : (endTransaction t s).txIdx = s.txIdx := rfl
@[simp] theorem endTransaction_txLen (t : TState) (s : State) : (endTransaction t s).txLen = s.txLen := rfl
@[simp] theorem endTransaction_rxIdx (t : TState) (s : State) : (endTransaction t s).rxIdx = s.rxIdx := rfl
@[simp] theorem endTransaction_opr (t : TState) (s : State) : (endTransaction t s).opr = s.opr := rfl
@[simp] theorem endTransaction_resp (t : TState) (s : State) : (endTransaction t s).resp = s.resp := rfl
@[simp] theorem endTransaction_buf (t : TState) (s : State) : (endTransaction t s).buf = s.buf := rfl
@[simp] theorem endTransaction_hwait (t : TState) (s : State) : (endTransaction t s).hwait = s.hwait := rfl
@[simp] theorem endTransaction_hpc (t : TState) (s : State) : (endTransaction t s).hpc = s.hpc := rfl
@[simp] theorem endTransaction_trace (t : TState) (s : State) : (endTransaction t s).trace = s.trace := rfl
@[simp] theorem endTransaction_params (t : TState) (s : State) : (endTransaction t s).params = s.params := rfl
@[simp] theorem endTransaction_prog (t : TState) (s : State) : (endTransaction t s).prog = s.prog := rfl
@[simp] theorem endTransaction_inputs (t : TState) (s : State) : (endTransaction t s).inputs = s.inputs := rfl
@[simp] theorem endTransaction_draws (t : TState) (s : State) : (endTransaction t s).draws = s.draws := rfl

/-! arm -/

@[simp] theorem arm_tstate (k : Kind) (dev : BitVec 7) (reg len : Byte) (ck : Bool) (s : State) : (arm k dev reg len ck s).tstate = .inProgress := rfl
@[simp] theorem arm_sig (k : Kind) (dev : BitVec 7) (reg len : Byte) (ck : Bool) (s : State) : (arm k dev reg len ck s).sig = false := rfl
@[simp] theorem arm_intEna (k : Kind) (dev : BitVec 7) (reg len : Byte) (ck : Bool) (s : State) : (arm k dev reg len ck s).intEna = allEvents := rfl
@[simp] theorem arm_intPend (k : Kind) (dev : BitVec 7) (reg len : Byte) (ck : Bool) (s : State) : (arm k dev reg len ck s).intPend = 0#6 := rfl
@[simp] theorem arm_cmd (k : Kind) (dev : BitVec 7) (reg len : Byte) (ck : Bool) (s : State) : (arm k dev reg len ck s).cmd = writeSlots s.cmd 0 (buildWords k len.toNat ck) := rfl
@[simp] theorem arm_cmdLen (k : Kind) (dev : BitVec 7) (reg len : Byte) (ck : Bool) (s : State) : (arm k dev reg len ck s).cmdLen = BitVec.ofNat 6 (buildSize k len.toNat) := rfl
@[simp] theorem arm_cmdPtr (k : Kind) (dev : BitVec 7) (reg len : Byte) (ck : Bool) (s : State) : (arm k dev reg len ck s).cmdPtr = 0#6 := rfl
@[simp] theorem arm_seqRun (k : Kind) (dev : BitVec 7) (reg len : Byte) (ck : Bool) (s : State) : (arm k dev reg len ck s).seqRun = true := rfl
@[simp] theorem arm_busOwn (k : Kind) (dev : BitVec 7) (reg len : Byte) (ck : Bool) (s : State) : (arm k dev reg len ck s).busOwn = s.busOwn := rfl
@[simp] theorem arm_rxFifo (k : Kind) (dev : BitVec 7) (reg len : Byte) (ck : Bool) (s : State) : (arm k dev reg len ck s).rxFifo = [] := rfl
@[simp] theorem arm_txLen (k : Kind) (dev : BitVec 7) (reg len : Byte) (ck : Bool) (s : State) : (arm k dev reg len ck s).txLen = BitVec.ofNat 5 (buildTxLen k len.toNat) := rfl
@[simp] theorem arm_rxIdx (k : Kind) (dev : BitVec 7) (reg len : Byte) (ck : Bool) (s : State) : (arm k dev reg len ck s).rxIdx = 0#5 := rfl
@[simp] theorem arm_opr (k : Kind) (dev : BitVec 7) (reg len : Byte) (ck : Bool) (s : State) : (arm k dev reg len ck s).opr = ⟨k, dev, reg, len, ck⟩ := rfl
@[simp] theorem arm_resp (k : Kind) (dev : BitVec 7) (reg len : Byte) (ck : Bool) (s : State) : (arm k dev reg len ck s).resp = s.resp := rfl
@[simp] theorem arm_buf (k : Kind) (dev : BitVec 7) (reg len : Byte) (ck : Bool) (s : State) : (arm k dev reg len ck s).buf = s.buf := rfl
@[simp] theorem arm_hwait (k : Kind) (dev : BitVec 7) (reg len : Byte) (ck : Bool) (s : State) : (arm k dev reg len ck s).hwait = s.hwait := rfl
@[simp] theorem arm_hpc (k : Kind) (dev : BitVec 7) (reg len : Byte) (ck : Bool) (s : State) : (arm k dev reg len ck s).hpc = s.hpc := rfl
@[simp] theorem arm_trace (k : Kind) (dev : BitVec 7) (reg len : Byte) (ck : Bool) (s : State) : (arm k dev reg len ck s).trace = s.trace := rfl
@[simp] theorem arm_params (k : Kind) (dev : BitVec 7) (reg len : Byte) (ck : Bool) (s : State) : (arm k dev reg len ck s).params = s.params := rfl
@[simp] theorem arm_prog (k : Kind) (dev : BitVec 7) (reg len : Byte) (ck : Bool) (s : State) : (arm k dev reg len ck s).prog = s.prog := rfl
@[simp] theorem arm_inputs (k : Kind) (dev : BitVec 7) (reg len : Byte) (ck : Bool) (s : State) : (arm k dev reg len ck s).inputs = s.inputs := rfl
@[simp] theorem arm_draws (k : Kind) (dev : BitVec 7) (reg len : Byte) (ck : Bool) (s : State) : (arm k dev reg len ck s).draws = s.draws := rfl

/-! abort -/

@[simp] theorem abort_tstate (c : AbortCause) (s : State) : (abort c s).tstate = abortState c := rfl
@[simp] theorem abort_sig (c : AbortCause) (s : State) : (abort c s).sig = true := rfl
@[simp] theorem abort_intEna (c : AbortCause) (s : State) : (abort c s).intEna = 0#6 := rfl
@[simp] theorem abort_intPend (c : AbortCause) (s : State) : (abort c s).intPend = 0#6 := rfl
@[simp] theorem abort_cmd (c : AbortCause) (s : State) : (abort c s).cmd = s.cmd := by
  simp only [abort, endTransaction, releaseBus]; split <;> rfl
@[simp] theorem abort_cmdLen (c : AbortCause) (s : State) : (abort c s).cmdLen = s.cmdLen := by
  simp only [abort, endTransaction, releaseBus]; split <;> rfl
@[simp] theorem abort_cmdPtr (c : AbortCause) (s : State) : (abort c s).cmdPtr = 0#6 := rfl
@[simp] theorem abort_seqRun (c : AbortCause) (s : State) : (abort c s).seqRun = false := rfl
@[simp] theorem abort_busOwn (c : AbortCause) (s : State) : (abort c s).busOwn = false := rfl
@[simp] theorem abort_txFifo (c : AbortCause) (s : State) : (abort c s).txFifo = [] := rfl
@[simp] theorem abort_rxFifo (c : AbortCause) (s : State) : (abort c s).rxFifo = [] := rfl
@[simp] theorem abort_txIdx (c : AbortCause) (s : State) : (abort c s).txIdx = s.txIdx := by
  simp only [abort, endTransaction, releaseBus]; split <;> rfl
@[simp] theorem abort_txLen (c : AbortCause) (s : State) : (abort c s).txLen = s.txLen := by
  simp only [abort, endTransaction, releaseBus]; split <;> rfl
@[simp] theorem abort_rxIdx (c : AbortCause) (s : State) : (abort c s).rxIdx = s.rxIdx := by
  simp only [abort, endTransaction, releaseBus]; split <;> rfl
@[simp] theorem abort_opr (c : AbortCause) (s : State) : (abort c s).opr = s.opr := by
  simp only [abort, endTransaction, releaseBus]; split <;> rfl
@[simp] theorem abort_resp (c : AbortCause) (s : State) : (abort c s).resp = s.resp := by
  simp only [abort, endTransaction, releaseBus]; split <;> rfl
@[simp] theorem abort_buf (c : AbortCause) (s : State) : (abort c s).buf = bufAfterAbort c s := rfl
@[simp] theorem abort_hwait (c : AbortCause) (s : State) : (abort c s).hwait = s.hwait := by
  simp only [abort, endTransaction, releaseBus]; split <;> rfl
@[simp] theorem abort_hpc (c : AbortCause) (s : State) : (abort c s).hpc = s.hpc := by
  simp only [abort, endTransaction, releaseBus]; split <;> rfl
@[simp] theorem abort_params (c : AbortCause) (s : State) : (abort c s).params = s.params := by
  simp only [abort, endTransaction, releaseBus]; split <;> rfl
@[simp] theorem abort_prog (c : AbortCause) (s : State) : (abort c s).prog = s.prog := by
  simp only [abort, endTransaction, releaseBus]; split <;> rfl
@[simp] theorem abort_inputs (c : AbortCause) (s : State) : (abort c s).inputs = s.inputs := by
  simp only [abort, endTransaction, releaseBus]; split <;> rfl
@[simp] theorem abort_draws (c : AbortCause) (s : State) : (abort c s).draws = s.draws := by
  simp only [abort, endTransaction, releaseBus]; split <;> rfl

/-! complete -/

@[simp] theorem complete_tstate (s : State) : (complete s).tstate = .completedOk := rfl
@[simp] theorem complete_sig (s : State) : (complete s).sig = true := rfl
@[simp] theorem complete_intEna (s : State) : (complete s).intEna = 0#6 := rfl
@[simp] theorem complete_intPend (s : State) : (complete s).intPend = 0#6 := rfl
@[simp] theorem complete_cmd (s : State) : (complete s).cmd = s.cmd := rfl
@[simp] theorem complete_cmdLen (s : State) : (complete s).cmdLen = s.cmdLen := rfl
@[simp] theorem complete_cmdPtr (s : State) : (complete s).cmdPtr = s.cmdPtr := rfl
@[simp] theorem complete_seqRun (s : State) : (complete s).seqRun = s.seqRun := rfl
@[simp] theorem complete_busOwn (s : State) : (complete s).busOwn = s.busOwn := rfl
@[simp] theorem complete_txFifo (s : State) : (complete s).txFifo = s.txFifo := rfl
@[simp] theorem complete_rxFifo (s : State) : (complete s).rxFifo = [] := rfl
@[simp] theorem complete_txIdx (s : State) : (complete s).txIdx = s.txIdx := rfl
@[simp] theorem complete_txLen (s : State) : (complete s).txLen = s.txLen := rfl
@[simp] theorem complete_rxIdx (s : State) : (complete s).rxIdx = (drain s).rxIdx := rfl
@[simp] theorem complete_opr (s : State) : (complete s).opr = s.opr := rfl
@[simp] theorem complete_resp (s : State) : (complete s).resp = s.resp := rfl
@[simp] theorem complete_buf (s : State) : (complete s).buf = (drain s).buf := rfl
@[simp] theorem complete_hwait (s : State) : (complete s).hwait = s.hwait := rfl
@[simp] theorem complete_hpc (s : State) : (complete s).hpc = s.hpc := rfl
@[simp] theorem complete_trace (s : State) : (complete s).trace = s.trace := rfl
@[simp] theorem complete_params (s : State) : (complete s).params = s.params := rfl
@[simp] theorem complete_prog (s : State) : (complete s).prog = s.prog := rfl
@[simp] theorem complete_inputs (s : State) : (complete s).inputs = s.inputs := rfl
@[simp] theorem complete_draws (s : State) : (complete s).draws = s.draws := rfl

/-! advance -/

@[simp] theorem advance_tstate (s : State) : (advance s).tstate = s.tstate := by
  unfold advance; dsimp only; split <;> rfl
@[simp] theorem advance_sig (s : State) : (advance s).sig = s.sig := by
  unfold advance; dsimp only; split <;> rfl
@[simp] theorem advance_intEna (s : State) : (advance s).intEna = s.intEna := by
  unfold advance; dsimp only; split <;> rfl
@[simp] theorem advance_intPend (s : State) : (advance s).intPend = if s.cmdPtr + 1#6 = s.cmdLen then s.intPend ||| 0x10#6 else s.intPend := by
  unfold advance; dsimp only; split <;> simp_all [eventMask]

@[simp] theorem advance_cmd (s : State) : (advance s).cmd = s.cmd := by
  unfold advance; dsimp only; split <;> rfl
@[simp] theorem advance_cmdLen (s : State) : (advance s).cmdLen = s.cmdLen := by
  unfold advance; dsimp only; split <;> rfl
@[simp] theorem advance_cmdPtr (s : State) : (advance s).cmdPtr = s.cmdPtr + 1#6 := by
  unfold advance; dsimp only; split <;> simp_all

@[simp] theorem advance_seqRun (s : State) : (advance s).seqRun = if s.cmdPtr + 1#6 = s.cmdLen then false else s.seqRun := by
  unfold advance; dsimp only; split <;> simp_all

@[simp] theorem advance_busOwn (s : State) : (advance s).busOwn = s.busOwn := by
  unfold advance; dsimp only; split <;> rfl
@[simp] theorem advance_txFifo (s : State) : (advance s).txFifo = s.txFifo := by
  unfold advance; dsimp only; split <;> rfl
@[simp] theorem advance_rxFifo (s : State) : (advance s).rxFifo = s.rxFifo := by
  unfold advance; dsimp only; split <;> rfl
@[simp] theorem advance_txIdx (s : State) : (advance s).txIdx = s.txIdx := by
  unfold advance; dsimp only; split <;> rfl
@[simp] theorem advance_txLen (s : State) : (advance s).txLen = s.txLen := by
  unfold advance; dsimp only; split <;> rfl
@[simp] theorem advance_rxIdx (s : State) : (advance s).rxIdx = s.rxIdx := by
  unfold advance; dsimp only; split <;> rfl
@[simp] theorem advance_opr (s : State) : (advance s).opr = s.opr := by
  unfold advance; dsimp only; split <;> rfl
@[simp] theorem advance_resp (s : State) : (advance s).resp = s.resp := by
  unfold advance; dsimp only; split <;> rfl
@[simp] theorem advance_buf (s : State) : (advance s).buf = s.buf := by
  unfold advance; dsimp only; split <;> rfl
@[simp] theorem advance_hwait (s : State) : (advance s).hwait = s.hwait := by
  unfold advance; dsimp only; split <;> rfl
@[simp] theorem advance_hpc (s : State) : (advance s).hpc = s.hpc := by
  unfold advance; dsimp only; split <;> rfl
@[simp] theorem advance_trace (s : State) : (advance s).trace = s.trace := by
  unfold advance; dsimp only; split <;> rfl
@[simp] theorem advance_params (s : State) : (advance s).params = s.params := by
  unfold advance; dsimp only; split <;> rfl
@[simp] theorem advance_prog (s : State) : (advance s).prog = s.prog := by
  unfold advance; dsimp only; split <;> rfl
@[simp] theorem advance_inputs (s : State) : (advance s).inputs = s.inputs := by
  unfold advance; dsimp only; split <;> rfl
@[simp] theorem advance_draws (s : State) : (advance s).draws = s.draws := by
  unfold advance; dsimp only; split <;> rfl

/-- The TRACE of an abort: `REL(c)` where the bus was held. -/
@[simp] theorem abort_trace (c : AbortCause) (s : State) :
    (abort c s).trace = if s.busOwn then s.trace ++ [.released c] else s.trace := by
  simp only [abort, endTransaction, releaseBus]; split <;> rfl

/-! service -/

/-- The state the feed of a service step starts from. -/
def afterDrain (p : BitVec 6) (s : State) : State := if p.getLsbD 1 = true then drain s else s

@[simp] theorem serviceRx_tstate (p : BitVec 6) (s : State) : (serviceRx p s).tstate = s.tstate := by
  unfold serviceRx; split <;> rfl
@[simp] theorem serviceRx_sig (p : BitVec 6) (s : State) : (serviceRx p s).sig = s.sig := by
  unfold serviceRx; split <;> rfl
@[simp] theorem serviceRx_intEna (p : BitVec 6) (s : State) : (serviceRx p s).intEna = s.intEna := by
  unfold serviceRx; split <;> rfl
@[simp] theorem serviceRx_cmd (p : BitVec 6) (s : State) : (serviceRx p s).cmd = s.cmd := by
  unfold serviceRx; split <;> rfl
@[simp] theorem serviceRx_cmdLen (p : BitVec 6) (s : State) : (serviceRx p s).cmdLen = s.cmdLen := by
  unfold serviceRx; split <;> rfl
@[simp] theorem serviceRx_cmdPtr (p : BitVec 6) (s : State) : (serviceRx p s).cmdPtr = s.cmdPtr := by
  unfold serviceRx; split <;> rfl
@[simp] theorem serviceRx_seqRun (p : BitVec 6) (s : State) : (serviceRx p s).seqRun = s.seqRun := by
  unfold serviceRx; split <;> rfl
@[simp] theorem serviceRx_busOwn (p : BitVec 6) (s : State) : (serviceRx p s).busOwn = s.busOwn := by
  unfold serviceRx; split <;> rfl
@[simp] theorem serviceRx_txFifo (p : BitVec 6) (s : State) : (serviceRx p s).txFifo = s.txFifo := by
  unfold serviceRx; split <;> rfl
@[simp] theorem serviceRx_txIdx (p : BitVec 6) (s : State) : (serviceRx p s).txIdx = s.txIdx := by
  unfold serviceRx; split <;> rfl
@[simp] theorem serviceRx_txLen (p : BitVec 6) (s : State) : (serviceRx p s).txLen = s.txLen := by
  unfold serviceRx; split <;> rfl
@[simp] theorem serviceRx_opr (p : BitVec 6) (s : State) : (serviceRx p s).opr = s.opr := by
  unfold serviceRx; split <;> rfl
@[simp] theorem serviceRx_resp (p : BitVec 6) (s : State) : (serviceRx p s).resp = s.resp := by
  unfold serviceRx; split <;> rfl
@[simp] theorem serviceRx_hwait (p : BitVec 6) (s : State) : (serviceRx p s).hwait = s.hwait := by
  unfold serviceRx; split <;> rfl
@[simp] theorem serviceRx_hpc (p : BitVec 6) (s : State) : (serviceRx p s).hpc = s.hpc := by
  unfold serviceRx; split <;> rfl
@[simp] theorem serviceRx_trace (p : BitVec 6) (s : State) : (serviceRx p s).trace = s.trace := by
  unfold serviceRx; split <;> rfl
@[simp] theorem serviceRx_params (p : BitVec 6) (s : State) : (serviceRx p s).params = s.params := by
  unfold serviceRx; split <;> rfl
@[simp] theorem serviceRx_prog (p : BitVec 6) (s : State) : (serviceRx p s).prog = s.prog := by
  unfold serviceRx; split <;> rfl
@[simp] theorem serviceRx_inputs (p : BitVec 6) (s : State) : (serviceRx p s).inputs = s.inputs := by
  unfold serviceRx; split <;> rfl
@[simp] theorem serviceRx_draws (p : BitVec 6) (s : State) : (serviceRx p s).draws = s.draws := by
  unfold serviceRx; split <;> rfl

@[simp] theorem serviceTx_tstate (p : BitVec 6) (s : State) : (serviceTx p s).tstate = s.tstate := by
  unfold serviceTx; split <;> rfl
@[simp] theorem serviceTx_sig (p : BitVec 6) (s : State) : (serviceTx p s).sig = s.sig := by
  unfold serviceTx; split <;> rfl
@[simp] theorem serviceTx_intEna (p : BitVec 6) (s : State) : (serviceTx p s).intEna = s.intEna := by
  unfold serviceTx; split <;> rfl
@[simp] theorem serviceTx_cmd (p : BitVec 6) (s : State) : (serviceTx p s).cmd = s.cmd := by
  unfold serviceTx; split <;> rfl
@[simp] theorem serviceTx_cmdLen (p : BitVec 6) (s : State) : (serviceTx p s).cmdLen = s.cmdLen := by
  unfold serviceTx; split <;> rfl
@[simp] theorem serviceTx_cmdPtr (p : BitVec 6) (s : State) : (serviceTx p s).cmdPtr = s.cmdPtr := by
  unfold serviceTx; split <;> rfl
@[simp] theorem serviceTx_seqRun (p : BitVec 6) (s : State) : (serviceTx p s).seqRun = s.seqRun := by
  unfold serviceTx; split <;> rfl
@[simp] theorem serviceTx_busOwn (p : BitVec 6) (s : State) : (serviceTx p s).busOwn = s.busOwn := by
  unfold serviceTx; split <;> rfl
@[simp] theorem serviceTx_rxFifo (p : BitVec 6) (s : State) : (serviceTx p s).rxFifo = s.rxFifo := by
  unfold serviceTx; split <;> rfl
@[simp] theorem serviceTx_txLen (p : BitVec 6) (s : State) : (serviceTx p s).txLen = s.txLen := by
  unfold serviceTx; split <;> rfl
@[simp] theorem serviceTx_rxIdx (p : BitVec 6) (s : State) : (serviceTx p s).rxIdx = s.rxIdx := by
  unfold serviceTx; split <;> rfl
@[simp] theorem serviceTx_opr (p : BitVec 6) (s : State) : (serviceTx p s).opr = s.opr := by
  unfold serviceTx; split <;> rfl
@[simp] theorem serviceTx_resp (p : BitVec 6) (s : State) : (serviceTx p s).resp = s.resp := by
  unfold serviceTx; split <;> rfl
@[simp] theorem serviceTx_buf (p : BitVec 6) (s : State) : (serviceTx p s).buf = s.buf := by
  unfold serviceTx; split <;> rfl
@[simp] theorem serviceTx_hwait (p : BitVec 6) (s : State) : (serviceTx p s).hwait = s.hwait := by
  unfold serviceTx; split <;> rfl
@[simp] theorem serviceTx_hpc (p : BitVec 6) (s : State) : (serviceTx p s).hpc = s.hpc := by
  unfold serviceTx; split <;> rfl
@[simp] theorem serviceTx_trace (p : BitVec 6) (s : State) : (serviceTx p s).trace = s.trace := by
  unfold serviceTx; split <;> rfl
@[simp] theorem serviceTx_params (p : BitVec 6) (s : State) : (serviceTx p s).params = s.params := by
  unfold serviceTx; split <;> rfl
@[simp] theorem serviceTx_prog (p : BitVec 6) (s : State) : (serviceTx p s).prog = s.prog := by
  unfold serviceTx; split <;> rfl
@[simp] theorem serviceTx_inputs (p : BitVec 6) (s : State) : (serviceTx p s).inputs = s.inputs := by
  unfold serviceTx; split <;> rfl
@[simp] theorem serviceTx_draws (p : BitVec 6) (s : State) : (serviceTx p s).draws = s.draws := by
  unfold serviceTx; split <;> rfl

@[simp] theorem service_tstate (p : BitVec 6) (s : State) : (service p s).tstate = s.tstate := by
  rw [service, serviceTx_tstate, serviceRx_tstate]
@[simp] theorem service_sig (p : BitVec 6) (s : State) : (service p s).sig = s.sig := by
  rw [service, serviceTx_sig, serviceRx_sig]
@[simp] theorem service_intEna (p : BitVec 6) (s : State) : (service p s).intEna = s.intEna := by
  rw [service, serviceTx_intEna, serviceRx_intEna]
@[simp] theorem service_cmd (p : BitVec 6) (s : State) : (service p s).cmd = s.cmd := by
  rw [service, serviceTx_cmd, serviceRx_cmd]
@[simp] theorem service_cmdLen (p : BitVec 6) (s : State) : (service p s).cmdLen = s.cmdLen := by
  rw [service, serviceTx_cmdLen, serviceRx_cmdLen]
@[simp] theorem service_cmdPtr (p : BitVec 6) (s : State) : (service p s).cmdPtr = s.cmdPtr := by
  rw [service, serviceTx_cmdPtr, serviceRx_cmdPtr]
@[simp] theorem service_seqRun (p : BitVec 6) (s : State) : (service p s).seqRun = s.seqRun := by
  rw [service, serviceTx_seqRun, serviceRx_seqRun]
@[simp] theorem service_busOwn (p : BitVec 6) (s : State) : (service p s).busOwn = s.busOwn := by
  rw [service, serviceTx_busOwn, serviceRx_busOwn]
@[simp] theorem service_txLen (p : BitVec 6) (s : State) : (service p s).txLen = s.txLen := by
  rw [service, serviceTx_txLen, serviceRx_txLen]
@[simp] theorem service_opr (p : BitVec 6) (s : State) : (service p s).opr = s.opr := by
  rw [service, serviceTx_opr, serviceRx_opr]
@[simp] theorem service_resp (p : BitVec 6) (s : State) : (service p s).resp = s.resp := by
  rw [service, serviceTx_resp, serviceRx_resp]
@[simp] theorem service_hwait (p : BitVec 6) (s : State) : (service p s).hwait = s.hwait := by
  rw [service, serviceTx_hwait, serviceRx_hwait]
@[simp] theorem service_hpc (p : BitVec 6) (s : State) : (service p s).hpc = s.hpc := by
  rw [service, serviceTx_hpc, serviceRx_hpc]
@[simp] theorem service_trace (p : BitVec 6) (s : State) : (service p s).trace = s.trace := by
  rw [service, serviceTx_trace, serviceRx_trace]
@[simp] theorem service_params (p : BitVec 6) (s : State) : (service p s).params = s.params := by
  rw [service, serviceTx_params, serviceRx_params]
@[simp] theorem service_prog (p : BitVec 6) (s : State) : (service p s).prog = s.prog := by
  rw [service, serviceTx_prog, serviceRx_prog]
@[simp] theorem service_inputs (p : BitVec 6) (s : State) : (service p s).inputs = s.inputs := by
  rw [service, serviceTx_inputs, serviceRx_inputs]
@[simp] theorem service_draws (p : BitVec 6) (s : State) : (service p s).draws = s.draws := by
  rw [service, serviceTx_draws, serviceRx_draws]

@[simp] theorem service_buf (p : BitVec 6) (s : State) : (service p s).buf = (afterDrain p s).buf := by
  rw [service, serviceTx_buf]; unfold serviceRx afterDrain eventBit; dsimp only; split <;> rfl
@[simp] theorem service_rxIdx (p : BitVec 6) (s : State) : (service p s).rxIdx = (afterDrain p s).rxIdx := by
  rw [service, serviceTx_rxIdx]; unfold serviceRx afterDrain eventBit; dsimp only; split <;> rfl
@[simp] theorem service_rxFifo (p : BitVec 6) (s : State) : (service p s).rxFifo = (afterDrain p s).rxFifo := by
  rw [service, serviceTx_rxFifo]; unfold serviceRx afterDrain eventBit; dsimp only; split <;> rfl

/-- What the feed pushes does not depend on the pending bits. -/
theorem feedResult_serviceRx (p : BitVec 6) (s : State) : feedResult (serviceRx p s) = feedResult (afterDrain p s) := by
  unfold serviceRx afterDrain eventBit; dsimp only; split <;> rfl

@[simp] theorem service_txFifo (p : BitVec 6) (s : State) :
    (service p s).txFifo = if p.getLsbD 0 = true then (feedResult (afterDrain p s)).1 else s.txFifo := by
  rw [service, ← feedResult_serviceRx, ← serviceRx_txFifo p s]
  generalize serviceRx p s = r
  unfold serviceTx eventBit; dsimp only; split <;> rfl
@[simp] theorem service_txIdx (p : BitVec 6) (s : State) :
    (service p s).txIdx = if p.getLsbD 0 = true then (feedResult (afterDrain p s)).2 else s.txIdx := by
  rw [service, ← feedResult_serviceRx, ← serviceRx_txIdx p s]
  generalize serviceRx p s = r
  unfold serviceTx eventBit; dsimp only; split <;> rfl

theorem clear_served : ∀ p x : BitVec 6,
    (if p.getLsbD 0 = true then (if p.getLsbD 1 = true then x &&& ~~~0x02#6 else x) &&& ~~~0x01#6
      else if p.getLsbD 1 = true then x &&& ~~~0x02#6 else x) = x &&& ~~~(p &&& 0x03#6) := by decide

theorem serviceRx_intPend (p : BitVec 6) (s : State) :
    (serviceRx p s).intPend = if p.getLsbD 1 = true then s.intPend &&& ~~~0x02#6 else s.intPend := by
  unfold serviceRx eventBit eventMask; dsimp only; split <;> rfl

theorem serviceTx_intPend (p : BitVec 6) (s : State) :
    (serviceTx p s).intPend = if p.getLsbD 0 = true then s.intPend &&& ~~~0x01#6 else s.intPend := by
  unfold serviceTx eventBit eventMask; dsimp only; split <;> rfl

/-- The service bits of the snapshot are cleared, the others stay. -/
@[simp] theorem service_intPend (p : BitVec 6) (s : State) :
    (service p s).intPend = s.intPend &&& ~~~(p &&& 0x03#6) := by
  rw [← clear_served, service, serviceTx_intPend, serviceRx_intPend]

/-! What the fields mean to the derived flags. -/

@[simp] theorem busy_iff (s : State) : busy s = true ↔ s.tstate = .inProgress := by
  simp [busy]

@[simp] theorem busy_false_iff (s : State) : busy s = false ↔ s.tstate ≠ .inProgress := by
  simp [busy]

@[simp] theorem txeLevel_iff (s : State) : txeLevel s = true ↔ s.txFifo = [] := by
  simp [txeLevel, List.length_eq_zero_iff]

@[simp] theorem rxfLevel_iff (s : State) : rxfLevel s = true ↔ s.rxFifo.length = s.params.rxDepth := by
  simp [rxfLevel]

theorem irqLine_iff (s : State) : irqLine s = true ↔ s.intPend &&& s.intEna ≠ 0#6 := by
  simp [irqLine, armedPending]

end Sys2Proof.Machine
end

