-- ==== Sys2Proof/Laws/Ops.lean ====
section
/-!
SUPPORT. For each shared operation, once, everything it can do: the feed, the slot writes, the classifier, an
instruction, and the step.
-/
namespace Sys2Proof.Machine

/-! The feed. -/

theorem feedLoop_eq (depth : Nat) (txLen : BitVec 5) (byteAt : BitVec 5 → Byte) (fuel : Nat) (q : List Byte)
    (i : BitVec 5) (hf : txLen.toNat - i.toNat ≤ fuel) :
    feedLoop depth txLen byteAt fuel q i =
      (q ++ (List.range (min (depth - q.length) (txLen.toNat - i.toNat))).map
          (fun j => byteAt (BitVec.ofNat 5 (i.toNat + j))),
        BitVec.ofNat 5 (i.toNat + min (depth - q.length) (txLen.toNat - i.toNat))) := by
  induction fuel generalizing q i with
  | zero =>
    have : txLen.toNat - i.toNat = 0 := by omega
    simp [feedLoop, this]
  | succ n ih =>
    rw [feedLoop]
    split
    · rename_i h
      have hlt : i.toNat < txLen.toNat := h.2
      have hb := txLen.isLt
      have hi : (i + 1#5).toNat = i.toNat + 1 := by simp only [BitVec.toNat_add, BitVec.toNat_ofNat]; omega
      have hq : (q ++ [byteAt i]).length = q.length + 1 := by simp
      have hn : min (depth - q.length) (txLen.toNat - i.toNat)
          = min (depth - (q.length + 1)) (txLen.toNat - (i.toNat + 1)) + 1 := by omega
      rw [ih _ _ (by omega), hi, hq, hn, List.range_succ_eq_map]
      simp [List.map_map, Function.comp_def, Nat.add_assoc, Nat.add_comm 1]
    · rename_i h
      have : min (depth - q.length) (txLen.toNat - i.toNat) = 0 := by
        rw [not_and_or] at h
        rcases h with h | h
        · omega
        · have : ¬ i.toNat < txLen.toNat := h
          omega
      simp [this]

/-- How many bytes the feed pushes. -/
def feedCount (s : State) : Nat := min (s.params.txDepth - s.txFifo.length) (s.txLen.toNat - s.txIdx.toNat)

theorem feedResult_eq (s : State) :
    feedResult s = (s.txFifo ++ (List.range (feedCount s)).map (fun j => txByte s (BitVec.ofNat 5 (s.txIdx.toNat + j))),
      BitVec.ofNat 5 (s.txIdx.toNat + feedCount s)) :=
  feedLoop_eq _ _ _ _ _ _ le_rfl

/-! Writing the slots. -/

theorem writeSlots_getElem? (ws : List Word) (cmd : Vector Word 32) (i j : Nat) :
    (writeSlots cmd i ws)[j]? = if i ≤ j ∧ j < i + ws.length ∧ j < 32 then ws[j - i]? else cmd[j]? := by
  induction ws generalizing cmd i with
  | nil =>
    have : ¬ (i ≤ j ∧ j < i + ([] : List Word).length ∧ j < 32) := by simp; omega
    rw [if_neg this]; rfl
  | cons w ws ih =>
    have hl : (w :: ws).length = ws.length + 1 := rfl
    rw [writeSlots, ih, Vector.getElem?_setIfInBounds]
    by_cases h1 : i = j
    · subst h1
      rw [if_neg (by omega), if_pos rfl]
      by_cases h2 : i < 32
      · rw [if_pos h2, if_pos (by omega)]; simp
      · rw [if_neg h2, if_neg (by omega)]
        simp [h2]
    · rw [if_neg h1]
      by_cases h2 : i + 1 ≤ j ∧ j < i + 1 + ws.length ∧ j < 32
      · rw [if_pos h2, if_pos (by omega)]
        have : j - i = (j - (i + 1)) + 1 := by omega
        rw [this, List.getElem?_cons_succ]
      · rw [if_neg h2, if_neg (by omega)]

/-! The classifier. -/

theorem classify_service_iff : ∀ p : BitVec 6, classify p = .service ↔ p &&& 0x3C#6 = 0#6 := by decide

theorem classify_complete_iff : ∀ p : BitVec 6, classify p = .complete ↔ p &&& 0x3C#6 = 0x10#6 := by decide

theorem classify_nack_iff : ∀ p : BitVec 6,
    classify p = .abort .nack ↔ p &&& 0x04#6 ≠ 0#6 ∧ p &&& 0x28#6 = 0#6 := by decide

theorem classify_timeout_iff : ∀ p : BitVec 6,
    classify p = .abort .timeout ↔ p &&& 0x08#6 ≠ 0#6 ∧ p &&& 0x20#6 = 0#6 := by decide

theorem classify_arbLost_iff : ∀ p : BitVec 6, classify p = .abort .arbLost ↔ p &&& 0x20#6 ≠ 0#6 := by decide

/-- Everything the classifier can do. -/
theorem takeInterrupt_cases (s : State) :
    (∃ c, classify (armedPending s) = .abort c ∧ takeInterrupt s = abort c s) ∨
    (classify (armedPending s) = .complete ∧ takeInterrupt s = complete s) ∨
    (classify (armedPending s) = .service ∧ takeInterrupt s = service (armedPending s) s) := by
  unfold takeInterrupt
  cases h : classify (armedPending s) with
  | abort c => exact .inl ⟨c, rfl, rfl⟩
  | complete => exact .inr (.inl ⟨rfl, rfl⟩)
  | service => exact .inr (.inr ⟨rfl, rfl⟩)

/-! An instruction always gives a next state: no meaning stops. -/

theorem exec_next (i : Instr) (s : State) : ∃ t, exec i s = .next t := by
  cases i <;> simp only [exec]
  case wrreg block ck dev reg len =>
    unfold execWrreg
    split
    · exact ⟨_, rfl⟩
    · split
      · exact ⟨_, rfl⟩
      · split <;> exact ⟨_, rfl⟩
  case rdreg ck dev reg len =>
    unfold execRdreg
    split
    · exact ⟨_, rfl⟩
    · split <;> exact ⟨_, rfl⟩
  case wait => unfold execWait; split <;> exact ⟨_, rfl⟩
  case stb => unfold execStb; split <;> exact ⟨_, rfl⟩
  case ldb => unfold execLdb; split <;> exact ⟨_, rfl⟩
  case start => exact ⟨_, rfl⟩
  case write => unfold execWrite; split <;> exact ⟨_, rfl⟩
  case read => unfold execRead; split <;> exact ⟨_, rfl⟩
  case stop => exact ⟨_, rfl⟩

/-! Which step is taken. -/

theorem nextMove_enabled {s : State} {m : Move} (h : nextMove s = some m) : moveEnabled s m = true := by
  have := List.find?_some h
  simpa using this

theorem nextMove_of_enabled {s : State} (h : moveEnabled s (currentInput s).move = true) :
    nextMove s = some (currentInput s).move := by
  simp [nextMove, h]

/-- No step is enabled exactly when `nextMove` finds none. -/
theorem nextMove_none_iff (s : State) : nextMove s = none ↔ ∀ m, moveEnabled s m = false := by
  constructor
  · intro h m
    have hall : ∀ x ∈ (currentInput s).move :: otherMoves, ¬ moveEnabled s x = true := by
      simpa [nextMove] using h
    cases m
    case seqArbLoss =>
      have := hall .seqNormal (by simp [otherMoves])
      simpa [moveEnabled] using this
    all_goals
      first
        | exact eq_false_of_ne_true (hall .host (by simp [otherMoves]))
        | exact eq_false_of_ne_true (hall .irq (by simp [otherMoves]))
        | exact eq_false_of_ne_true (hall .seqNormal (by simp [otherMoves]))
        | exact eq_false_of_ne_true (hall .seqHang (by simp [otherMoves]))
  · intro h
    simp [nextMove, h]

/-- Everything a step that gives a next state can be: an enabled step of one agent, with its input consumed. -/
theorem step_cases {s t : State} (h : step s = .next t) :
    ∃ m u, moveEnabled s m = true ∧ takeMove m s = .next u ∧ t = consumeInput u := by
  unfold step agentStep at h
  cases hm : nextMove s with
  | none => rw [hm] at h; exact nomatch h
  | some m =>
    rw [hm] at h
    dsimp only at h
    cases hu : takeMove m s with
    | next u =>
      rw [hu] at h
      exact ⟨m, u, nextMove_enabled hm, hu, by simpa [consumed] using h.symm⟩
    | fault f => rw [hu] at h; exact nomatch h
    | refused r => rw [hu] at h; exact nomatch h

theorem step_of_enabled {s : State} {m : Move} (he : moveEnabled s m = true) (hm : (currentInput s).move = m) :
    step s = consumed (takeMove m s) := by
  subst hm
  simp only [step, agentStep, nextMove_of_enabled he]

/-- Everything HOST's step can be: the wake step, or the issue of a decoded host operation. -/
theorem hostStep_cases {s u : State} (he : moveEnabled s .host = true) (h : takeMove .host s = .next u) :
    (s.hwait = true ∧ s.sig = true ∧ u = wake s) ∨
    (s.hwait = false ∧ s.hpc < s.prog.length ∧ ∃ w i, s.prog[s.hpc]? = some w ∧ decodeHcmd w = .ok i ∧
      exec i s = .next u) := by
  simp only [moveEnabled, hostEnabled] at he
  simp only [takeMove, hostStep] at h
  by_cases hw : s.hwait = true
  · left
    rw [if_pos hw] at he h
    exact ⟨hw, he, by simpa using h.symm⟩
  · right
    rw [if_neg hw] at he h
    have hlt : s.hpc < s.prog.length := by simpa using he
    refine ⟨by simpa using hw, hlt, ?_⟩
    rw [List.getElem?_eq_getElem hlt] at h ⊢
    dsimp only at h
    unfold hostIssue at h
    split at h
    · rename_i i hi
      exact ⟨_, i, rfl, hi, h⟩
    · exact nomatch h

/-- SEQ's normal step is the meaning of the slot command it is at. -/
theorem seqNormal_cases {s u : State} (he : moveEnabled s .seqNormal = true) (h : takeMove .seqNormal s = .next u) :
    s.seqRun = true ∧ ∃ i, currentSlot s = some i ∧ slotHeld i s = false ∧ exec i s = .next u := by
  simp only [moveEnabled, seqNormalEnabled, Bool.and_eq_true] at he
  simp only [takeMove, seqNormalStep] at h
  obtain ⟨hr, hc⟩ := he
  cases hs : currentSlot s with
  | none => rw [hs] at hc; exact nomatch hc
  | some i =>
    rw [hs] at h hc
    exact ⟨hr, i, rfl, by simpa using hc, h⟩

end Sys2Proof.Machine
end

