-- ==== Sys2Proof/Laws/Build.lean ====
section
/-!
SUPPORT. The length check, the sizes of the built sequences, and reading a built slot back.
-/
namespace Sys2Proof.Machine

theorem validLen_write_iff (len : Byte) : validLen .write len = true ↔ 1 ≤ len.toNat ∧ len.toNat ≤ 28 := by
  simp only [validLen, Bool.and_eq_true, decide_eq_true_eq]
  rfl

theorem validLen_read_iff (len : Byte) : validLen .read len = true ↔ 1 ≤ len.toNat ∧ len.toNat ≤ 26 := by
  simp only [validLen, Bool.and_eq_true, decide_eq_true_eq]
  rfl

/-- A valid request has between 5 and 32 slots. -/
theorem buildSize_bounds {k : Kind} {len : Byte} (h : validLen k len = true) :
    5 ≤ buildSize k len.toNat ∧ buildSize k len.toNat ≤ 32 := by
  cases k
  · rw [validLen_write_iff] at h; simp only [buildSize]; omega
  · rw [validLen_read_iff] at h; simp only [buildSize]; omega

/-- A valid request transmits between 3 and 30 bytes. -/
theorem buildTxLen_bounds {k : Kind} {len : Byte} (h : validLen k len = true) :
    3 ≤ buildTxLen k len.toNat ∧ buildTxLen k len.toNat ≤ 30 := by
  cases k
  · rw [validLen_write_iff] at h; simp only [buildTxLen]; omega
  · simp [buildTxLen]

theorem buildSlots_length {k : Kind} {len : Byte} (ck : Bool) (h : validLen k len = true) :
    (buildSlots k len.toNat ck).length = buildSize k len.toNat := by
  cases k
  · simp [buildSlots, buildWriteSlots, buildSize]
  · rw [validLen_read_iff] at h
    simp [buildSlots, buildReadSlots, buildSize]
    omega

theorem buildWords_length {k : Kind} {len : Byte} (ck : Bool) (h : validLen k len = true) :
    (buildWords k len.toNat ck).length = buildSize k len.toNat := by
  rw [buildWords, List.length_map, buildSlots_length ck h]

/-- The slot at index j of a write. -/
theorem buildWriteSlots_get (len : Nat) (ck : Bool) (j : Nat) :
    (buildWriteSlots len ck)[j]? =
      if j = 0 then some .start
      else if j < len + 3 then some (.write ck)
      else if j = len + 3 then some .stop else none := by
  simp only [buildWriteSlots]
  rcases j with _ | _ | _ | j <;> try simp
  rw [List.getElem?_append]
  simp only [List.length_replicate]
  split
  · rename_i h
    rw [List.getElem?_replicate, if_pos h]
  · rename_i h
    split
    · rename_i h2
      subst h2
      simp
    · rw [List.getElem?_eq_none (by simp; omega)]

/-- The slot at index j of a read. -/
theorem buildReadSlots_get (len : Nat) (ck : Bool) (j : Nat) (hl : 1 ≤ len) :
    (buildReadSlots len ck)[j]? =
      if j = 0 then some .start
      else if j < 3 then some (.write ck)
      else if j = 3 then some .start
      else if j = 4 then some (.write ck)
      else if j < len + 4 then some (.read false)
      else if j = len + 4 then some (.read true)
      else if j = len + 5 then some .stop else none := by
  obtain ⟨n, rfl⟩ : ∃ n, len = n + 1 := ⟨len - 1, by omega⟩
  simp only [buildReadSlots, Nat.add_sub_cancel]
  rcases j with _ | _ | _ | _ | _ | j <;> try simp
  rw [List.getElem?_append]
  simp only [List.length_replicate]
  by_cases h : j < n
  · rw [if_pos h, List.getElem?_replicate, if_pos h, if_neg (by omega), if_pos (by omega)]
  · rw [if_neg h, if_neg (by omega), if_neg (by omega)]
    obtain ⟨d, rfl⟩ : ∃ d, j = n + d := ⟨j - n, by omega⟩
    rw [Nat.add_sub_cancel_left]
    rcases d with _ | _ | d
    · simp
    · simp
    · rw [if_neg (by omega), if_neg (by omega)]
      simp

/-- A slot command is read back from its slot word. -/
theorem slotInstr_encode {i : Instr} (h : i.isHostOp = false) : slotInstr (encode i) = some i := by
  cases i
  case start => decide
  case stop => decide
  case write b => cases b <;> decide
  case read b => cases b <;> decide
  all_goals exact nomatch h

theorem buildSlots_slotOp {k : Kind} {len : Nat} {ck : Bool} {i : Instr} (h : i ∈ buildSlots k len ck) :
    i.isHostOp = false := by
  cases k
  · simp only [buildSlots, buildWriteSlots, List.mem_append, List.mem_singleton, List.mem_replicate] at h
    rcases h with (((rfl | rfl) | rfl) | ⟨-, rfl⟩) | rfl <;> rfl
  · simp only [buildSlots, buildReadSlots, List.mem_append, List.mem_singleton, List.mem_replicate] at h
    rcases h with ((((((rfl | rfl) | rfl) | rfl) | rfl) | ⟨-, rfl⟩) | rfl) | rfl <;> rfl

end Sys2Proof.Machine
end

