-- ==== Sys2Proof/Laws/Memory.lean ====
section
/-!
SUPPORT. The laws of BUF: read after write, and that every operation keeps the canonical form.
-/
namespace Sys2Proof.Machine

theorem lookupCell_insert_same (m : List Host.Cell) (k : Nat) (v : Byte) :
    lookupCell (insertCell m k v) k = some v := by
  induction m with
  | nil => simp [insertCell, lookupCell]
  | cons c cs ih =>
    obtain ⟨a, b⟩ := c
    simp only [insertCell]
    split
    · simp [lookupCell]
    · split
      · simp [lookupCell]
      · simp only [lookupCell]
        rw [if_neg (by omega), ih]

theorem lookupCell_insert_other (m : List Host.Cell) (k j : Nat) (v : Byte) (h : j ≠ k) :
    lookupCell (insertCell m k v) j = lookupCell m j := by
  induction m with
  | nil => simp [insertCell, lookupCell, Ne.symm h]
  | cons c cs ih =>
    obtain ⟨a, b⟩ := c
    simp only [insertCell]
    split
    · simp [lookupCell, Ne.symm h]
    · split
      · rename_i hka
        subst hka
        simp [lookupCell, Ne.symm h]
      · simp only [lookupCell, ih]

@[simp] theorem bufGet_set_same (m : Memory) (i v : Byte) : bufGet (bufSet m i v) i = some v :=
  lookupCell_insert_same _ _ _

theorem bufGet_set_other (m : Memory) (i j v : Byte) (h : j ≠ i) : bufGet (bufSet m i v) j = bufGet m j :=
  lookupCell_insert_other _ _ _ _ (fun e => h (BitVec.eq_of_toNat_eq e))

theorem lookupCell_filter_ge (m : List Host.Cell) (n k : Nat) :
    lookupCell (m.filter (fun c => decide (n ≤ c.1))) k = if k < n then none else lookupCell m k := by
  induction m with
  | nil => simp [lookupCell]
  | cons c cs ih =>
    obtain ⟨a, b⟩ := c
    by_cases hna : n ≤ a
    · simp only [List.filter_cons, hna, decide_true, if_true, lookupCell, ih]
      by_cases ha : a = k
      · rw [if_pos ha, if_pos ha, if_neg (by omega)]
      · rw [if_neg ha, if_neg ha]
    · simp only [List.filter_cons, hna, decide_false, Bool.false_eq_true, if_false, lookupCell, ih]
      by_cases ha : a = k
      · rw [if_pos (by omega), if_pos (by omega)]
      · rw [if_neg ha]

/-- BUF[0 .. n-1] hold no value after `bufForget`, every other byte reads as before. -/
theorem bufGet_forget (m : Memory) (n : Nat) (i : Byte) :
    bufGet (bufForget m n) i = if i.toNat < n then none else bufGet m i :=
  lookupCell_filter_ge _ _ _

/-! The canonical form, as a pairwise order. -/

theorem risingCells_iff (m : List Host.Cell) : risingCells m = true ↔ m.Pairwise (fun c d => c.1 < d.1) := by
  induction m with
  | nil => simp [risingCells]
  | cons c cs ih =>
    cases cs with
    | nil => simp [risingCells]
    | cons d ds =>
      simp only [risingCells, Bool.and_eq_true, decide_eq_true_eq, ih, List.pairwise_cons]
      constructor
      · rintro ⟨h, h2, h3⟩
        refine ⟨?_, h2, h3⟩
        intro e he
        rcases List.mem_cons.1 he with rfl | he
        · exact h
        · exact lt_trans h (h2 e he)
      · rintro ⟨h1, h2, h3⟩
        exact ⟨h1 d (by simp), h2, h3⟩

theorem bufWf_iff (m : Memory) :
    Memory.wf m = true ↔ m.cells.Pairwise (fun c d => c.1 < d.1) ∧ ∀ c ∈ m.cells, c.1 < 256 := by
  simp [Memory.wf, risingCells_iff]

theorem mem_insertCell {m : List Host.Cell} {k : Nat} {v : Byte} {c : Host.Cell} (h : c ∈ insertCell m k v) :
    c = (k, v) ∨ c ∈ m := by
  induction m with
  | nil => simpa [insertCell] using h
  | cons d ds ih =>
    obtain ⟨a, b⟩ := d
    simp only [insertCell] at h
    split at h
    · simpa using h
    · split at h
      · rcases List.mem_cons.1 h with h | h
        · exact .inl h
        · exact .inr (List.mem_cons_of_mem _ h)
      · rcases List.mem_cons.1 h with h | h
        · exact .inr (by simp [h])
        · rcases ih h with h | h
          · exact .inl h
          · exact .inr (List.mem_cons_of_mem _ h)

theorem rising_insertCell {m : List Host.Cell} {k : Nat} {v : Byte}
    (h : m.Pairwise (fun c d => c.1 < d.1)) : (insertCell m k v).Pairwise (fun c d => c.1 < d.1) := by
  induction m with
  | nil => simp [insertCell]
  | cons d ds ih =>
    obtain ⟨a, b⟩ := d
    rw [List.pairwise_cons] at h
    simp only [insertCell]
    split
    · rename_i hk
      refine List.pairwise_cons.2 ⟨fun c hc => ?_, List.pairwise_cons.2 h⟩
      rcases List.mem_cons.1 hc with rfl | hc
      · exact hk
      · exact lt_trans hk (h.1 c hc)
    · split
      · rename_i _ hk
        subst hk
        exact List.pairwise_cons.2 h
      · refine List.pairwise_cons.2 ⟨fun c hc => ?_, ih h.2⟩
        rcases mem_insertCell hc with rfl | hc
        · show a < k
          omega
        · exact h.1 c hc

/-- A store keeps the canonical form. -/
theorem bufWf_set {m : Memory} (h : Memory.wf m = true) (i v : Byte) : Memory.wf (bufSet m i v) = true := by
  rw [bufWf_iff] at h ⊢
  refine ⟨rising_insertCell h.1, fun c hc => ?_⟩
  rcases mem_insertCell hc with rfl | hc
  · exact i.isLt
  · exact h.2 c hc

/-- Forgetting keeps the canonical form. -/
theorem bufWf_forget {m : Memory} (h : Memory.wf m = true) (n : Nat) : Memory.wf (bufForget m n) = true := by
  rw [bufWf_iff] at h ⊢
  exact ⟨h.1.filter _, fun c hc => h.2 c (List.mem_filter.1 hc).1⟩

/-- The drain keeps the canonical form. -/
theorem bufWf_drainLoop (q : List Byte) (i : BitVec 5) (m : Memory) (h : Memory.wf m = true) :
    Memory.wf (drainLoop q i m).1 = true := by
  induction q generalizing i m with
  | nil => exact h
  | cons b q ih => exact ih _ _ (bufWf_set h _ _)

/-- An abort keeps the canonical form. -/
theorem bufWf_afterAbort (c : AbortCause) (s : State) (h : Memory.wf s.buf = true) :
    Memory.wf (bufAfterAbort c s) = true := by
  unfold bufAfterAbort
  split <;> first | exact h | exact bufWf_forget h _

/-- BUF at reset has the canonical form. -/
theorem bufWf_reset (p : Params) (prog : List Word) : Memory.wf (State.resetWith p prog).buf = true := rfl

/-! The drain. -/

theorem drainLoop_index (q : List Byte) (i : BitVec 5) (m : Memory) :
    (drainLoop q i m).2 = i + BitVec.ofNat 5 q.length := by
  induction q generalizing i m with
  | nil => simp [drainLoop]
  | cons b q ih =>
    rw [drainLoop, ih]
    apply BitVec.eq_of_toNat_eq
    simp [Nat.add_assoc, Nat.add_comm 1]

theorem bufIndex_toNat (i : BitVec 5) : (bufIndex i).toNat = i.toNat := by
  have := i.isLt
  simp only [bufIndex, BitVec.toNat_setWidth]
  omega

/-- What the drain leaves in BUF: the queue, oldest first, from index i on, and every other byte as it was. -/
theorem bufGet_drainLoop (q : List Byte) (i : BitVec 5) (m : Memory) (h : i.toNat + q.length ≤ 31) (a : Byte) :
    bufGet (drainLoop q i m).1 a =
      if i.toNat ≤ a.toNat ∧ a.toNat < i.toNat + q.length then q[a.toNat - i.toNat]? else bufGet m a := by
  induction q generalizing i m with
  | nil =>
    have : ¬ (i.toNat ≤ a.toNat ∧ a.toNat < i.toNat + ([] : List Byte).length) := by simp
    simp only [drainLoop, if_neg this]
  | cons b q ih =>
    have hl : (b :: q).length = q.length + 1 := rfl
    have hi : (i + 1#5).toNat = i.toNat + 1 := by
      simp only [BitVec.toNat_add, BitVec.toNat_ofNat]; omega
    rw [drainLoop, ih _ _ (by omega), hi]
    by_cases h1 : a.toNat = i.toNat
    · have ha : a = bufIndex i := BitVec.eq_of_toNat_eq (by rw [bufIndex_toNat]; exact h1)
      rw [if_neg (by omega), if_pos (by omega), h1, ha]
      simp
    · have ha : a ≠ bufIndex i := fun e => h1 (by rw [e, bufIndex_toNat])
      by_cases h2 : i.toNat + 1 ≤ a.toNat ∧ a.toNat < i.toNat + 1 + q.length
      · rw [if_pos h2, if_pos (by omega)]
        have : a.toNat - i.toNat = (a.toNat - (i.toNat + 1)) + 1 := by omega
        rw [this, List.getElem?_cons_succ]
      · rw [if_neg h2, if_neg (by omega), bufGet_set_other _ _ _ _ ha]

end Sys2Proof.Machine
end

