-- ==== Sys2Proof/Laws/PerInstr.lean ====
section
/-!
SUPPORT. The family `InRow` over the instructions: the word of an instruction selects the row of spec/opcode_table.json
the instruction belongs to (spec/30_encoding.md R101, R102, R104, R105).
-/
namespace Sys2Proof.Laws

/-- The encoded word has the row's fixed bits, whatever the operands. -/
def InRow.Statement (i : Instr) : Prop := i.row.selects (encode i) = true

theorem InRow.wrreg (block checkAck : Bool) (devAddr : BitVec 7) (startReg len : Byte) :
    InRow.Statement (.wrreg block checkAck devAddr startReg len) := by
  simp only [InRow.Statement, Row.selects, Instr.row, encode, beq_iff_eq, wrregRow, place]
  apply BitVec.eq_of_getLsbD_eq
  intro j hj
  interval_cases j <;> simp

theorem InRow.rdreg (checkAck : Bool) (devAddr : BitVec 7) (startReg len : Byte) :
    InRow.Statement (.rdreg checkAck devAddr startReg len) := by
  simp only [InRow.Statement, Row.selects, Instr.row, encode, beq_iff_eq, rdregRow, place]
  apply BitVec.eq_of_getLsbD_eq
  intro j hj
  interval_cases j <;> simp

theorem InRow.wait : InRow.Statement .wait := by
  unfold InRow.Statement
  decide

theorem InRow.stb (idx val : Byte) : InRow.Statement (.stb idx val) := by
  simp only [InRow.Statement, Row.selects, Instr.row, encode, beq_iff_eq, stbRow, place]
  apply BitVec.eq_of_getLsbD_eq
  intro j hj
  interval_cases j <;> simp

theorem InRow.ldb (idx : Byte) : InRow.Statement (.ldb idx) := by
  simp only [InRow.Statement, Row.selects, Instr.row, encode, beq_iff_eq, ldbRow, place]
  apply BitVec.eq_of_getLsbD_eq
  intro j hj
  interval_cases j <;> simp

theorem InRow.start : InRow.Statement .start := by
  unfold InRow.Statement
  decide

theorem InRow.write (ackCheck : Bool) : InRow.Statement (.write ackCheck) := by
  unfold InRow.Statement
  cases ackCheck <;> decide

theorem InRow.read (ackVal : Bool) : InRow.Statement (.read ackVal) := by
  unfold InRow.Statement
  cases ackVal <;> decide

theorem InRow.stop : InRow.Statement .stop := by
  unfold InRow.Statement
  decide

end Sys2Proof.Laws
end

