-- ==== Sys2Proof/Laws/Platform.lean ====
section
/-!
SUPPORT. What each operation over several controllers can do, once.
-/
namespace Sys2Proof.Machine

/-- The controller that moved. -/
theorem withUnit_self {p : Platform} {k : Nat} {s : State} (t : State) (h : p.units[k]? = some s) :
    (withUnit p k t).units[k]? = some t := by
  have hk : k < p.units.length := (List.getElem?_eq_some_iff.1 h).1
  simp [withUnit, hk]

/-- Every other controller. -/
theorem withUnit_other (p : Platform) {k j : Nat} (t : State) (h : j ≠ k) : (withUnit p k t).units[j]? = p.units[j]? := by
  simp only [withUnit]
  exact List.getElem?_set_ne h.symm

@[simp] theorem freshUnit_params (q : Params) (prog : List Word) (ins : List Input) :
    (freshUnit q prog ins).params = q := rfl

@[simp] theorem freshUnit_inputs (q : Params) (prog : List Word) (ins : List Input) :
    (freshUnit q prog ins).inputs = ins := rfl

/-- The entry of a unit is a controller with that CTRL_INDEX. -/
theorem dispatchUnit_some {p : Platform} {u k : Nat} (h : dispatchUnit p u = some k) :
    ∃ s, p.units[k]? = some s ∧ s.params.ctrlIndex = u := by
  obtain ⟨hk, hu, -⟩ := List.findIdx?_eq_some_iff_getElem.1 h
  exact ⟨p.units[k], List.getElem?_eq_getElem hk, by simpa using hu⟩

/-- A unit has no entry exactly when no controller has that CTRL_INDEX. -/
theorem dispatchUnit_none {p : Platform} {u : Nat} :
    dispatchUnit p u = none ↔ ∀ s ∈ p.units, s.params.ctrlIndex ≠ u := by
  simp [dispatchUnit]

/-- Everything a construction can do. -/
theorem construct_cases {q : Params} {prog : List Word} {ins : List Input} {p r : Platform}
    (h : construct q prog ins p = some r) :
    dispatchUnit p q.ctrlIndex = none ∧ r = ⟨p.units ++ [freshUnit q prog ins]⟩ := by
  unfold construct at h
  split at h
  · exact nomatch h
  · rename_i hd
    exact ⟨hd, (Option.some.inj h).symm⟩

/-- Everything a step of one controller of several can do. -/
theorem platformStep_cases {p q : Platform} {k : Nat} (h : platformStep p k = some (.next q)) :
    ∃ s t, p.units[k]? = some s ∧ step s = .next t ∧ q = withUnit p k t := by
  unfold platformStep at h
  split at h
  · exact nomatch h
  · rename_i s hs
    split at h <;> simp only [Option.some.injEq, Host.Outcome.next.injEq, reduceCtorEq] at h
    rename_i t ht
    exact ⟨s, t, hs, ht, h.symm⟩

/-- Everything the interrupt of a hardware unit can do. -/
theorem platformInterrupt_cases {p q : Platform} {u : Nat} (h : platformInterrupt p u = some q) :
    ∃ k s, dispatchUnit p u = some k ∧ p.units[k]? = some s ∧ irqLine s = true ∧
      q = withUnit p k (consumeInput (takeInterrupt s)) := by
  unfold platformInterrupt at h
  split at h
  · exact nomatch h
  · rename_i k hk
    split at h
    · exact nomatch h
    · rename_i s hs
      split at h
      · rename_i hi
        exact ⟨k, s, hk, hs, hi, (Option.some.inj h).symm⟩
      · exact nomatch h

end Sys2Proof.Machine
end

