-- ==== Sys2Proof/Laws/Step.lean ====
section
/-!
SUPPORT. Everything a step can do, once: the list of the atomic steps with their guards. A claim over all steps is a case
analysis of `StepShape`.
-/
namespace Sys2Proof.Machine

/-- HOST issues the word at HPC. -/
structure Issuing (s : State) : Prop where
  awake : s.hwait = false
  inProg : s.hpc < s.prog.length

/-- `HostShape s u`: HOST's step takes `s` to `u`, its input not yet consumed. -/
inductive HostShape (s : State) : State → Prop where
  | wake (hw : s.hwait = true) (hs : s.sig = true) : HostShape s (wake s)
  | rejectBusy (hi : Issuing s) (hb : s.tstate = .inProgress) : HostShape s (rejectBusy s)
  | rejectArgument (hi : Issuing s) (hb : s.tstate ≠ .inProgress) : HostShape s (rejectArgument s)
  | armBlocking (k : Kind) (dev : BitVec 7) (reg len : Byte) (ck : Bool) (hi : Issuing s) (hb : s.tstate ≠ .inProgress)
      (hv : validLen k len = true) : HostShape s { arm k dev reg len ck s with hwait := true }
  | armGoingOn (dev : BitVec 7) (reg len : Byte) (ck : Bool) (hi : Issuing s) (hb : s.tstate ≠ .inProgress)
      (hv : validLen .write len = true) : HostShape s (finishHostOp .inProgress 0#8 (arm .write dev reg len ck s))
  | waitBlocks (hi : Issuing s) (hb : s.tstate = .inProgress) : HostShape s { s with hwait := true }
  | waitAnswers (hi : Issuing s) (hb : s.tstate ≠ .inProgress) :
      HostShape s (finishHostOp (resultCode s.tstate) 0#8 { s with sig := false })
  | stb (idx val : Byte) (hi : Issuing s) (hb : s.tstate ≠ .inProgress) :
      HostShape s (finishHostOp .ok 0#8 { s with buf := bufSet s.buf idx val })
  | ldb (idx : Byte) (hi : Issuing s) (hb : s.tstate ≠ .inProgress) :
      HostShape s (finishHostOp .ok (readBuf s idx) s)

/-- `SeqShape s u`: one of SEQ's steps takes `s` to `u`, its input not yet consumed. -/
inductive SeqShape (s : State) : State → Prop where
  | start (hr : s.seqRun = true) (hc : currentSlot s = some .start) :
      SeqShape s (advance { emit (if s.busOwn then .restart else .start) s with busOwn := true })
  | write (ackCheck : Bool) (b : Byte) (rest : List Byte) (hr : s.seqRun = true)
      (hc : currentSlot s = some (.write ackCheck)) (hq : s.txFifo = b :: rest) :
      SeqShape s (transmit ackCheck b rest s)
  | read (ackVal : Bool) (hr : s.seqRun = true) (hc : currentSlot s = some (.read ackVal))
      (hq : s.rxFifo.length ≠ s.params.rxDepth) : SeqShape s (receive ackVal (currentInput s).byte s)
  | stop (hr : s.seqRun = true) (hc : currentSlot s = some .stop) :
      SeqShape s (advance { emit .stop s with busOwn := false })
  | arbLoss (i : Instr) (hr : s.seqRun = true) (hc : currentSlot s = some i) (hh : slotHeld i s = false) :
      SeqShape s (seqArbLoss s)
  | hang (hr : s.seqRun = true) : SeqShape s (seqHang s)

/-- `StepShape s u`: some agent's enabled step takes `s` to `u`, its input not yet consumed. -/
inductive StepShape (s : State) : State → Prop where
  | host {u : State} (h : HostShape s u) : StepShape s u
  | irq (hi : irqLine s = true) : StepShape s (takeInterrupt s)
  | seq {u : State} (h : SeqShape s u) : StepShape s u

/-- A word that decodes as a host command is no slot command, and the other way round. -/
theorem decodeHcmd_isHostOp {w : Word} {i : Instr} (h : decodeHcmd w = .ok i) : i.isHostOp = true := by
  unfold decodeHcmd at h
  repeat' split at h
  all_goals
    simp only [reduceCtorEq, Except.ok.injEq] at h
  all_goals
    subst h
    rfl

theorem slotInstr_isSlot {w : Word} {i : Instr} (h : slotInstr w = some i) : i.isHostOp = false := by
  unfold slotInstr decodeSlot at h
  repeat' split at h
  all_goals simp only [Except.toOption, reduceCtorEq, Option.some.injEq] at h
  all_goals subst h; rfl

theorem currentSlot_isSlot {s : State} {i : Instr} (h : currentSlot s = some i) : i.isHostOp = false := by
  obtain ⟨w, -, hw⟩ := Option.bind_eq_some_iff.1 h
  exact slotInstr_isSlot hw

/-- Everything an issued host operation can do. -/
theorem exec_host_shape {s u : State} {i : Instr} (hi : Issuing s) (hop : i.isHostOp = true) (h : exec i s = .next u) :
    HostShape s u := by
  by_cases hb : s.tstate = .inProgress
  · have hbusy : busy s = true := (busy_iff s).2 hb
    cases i <;> simp only [Instr.isHostOp, reduceCtorEq] at hop <;>
      simp only [exec, execWrreg, execRdreg, execWait, execStb, execLdb, hbusy, if_true, Host.Outcome.next.injEq] at h <;>
      subst h
    case wait => exact .waitBlocks hi hb
    all_goals exact .rejectBusy hi hb
  · have hbusy : busy s = false := eq_false_of_ne_true (fun e => hb ((busy_iff s).1 e))
    cases i <;> simp only [Instr.isHostOp, reduceCtorEq] at hop <;>
      simp only [exec, execWrreg, execRdreg, execWait, execStb, execLdb, hbusy, Bool.false_eq_true, if_false] at h
    case wrreg block ck dev reg len =>
      by_cases hv : validLen .write len = true
      · cases block <;> simp only [hv, Bool.not_true, Bool.false_eq_true, if_false, if_true, Host.Outcome.next.injEq] at h <;>
          subst h
        · exact .armGoingOn dev reg len ck hi hb hv
        · exact .armBlocking .write dev reg len ck hi hb hv
      · simp only [hv, Bool.not_false, if_true, Host.Outcome.next.injEq] at h
        subst h
        exact .rejectArgument hi hb
    case rdreg ck dev reg len =>
      by_cases hv : validLen .read len = true
      · simp only [hv, Bool.not_true, Bool.false_eq_true, if_false, Host.Outcome.next.injEq] at h
        subst h
        exact .armBlocking .read dev reg len ck hi hb hv
      · simp only [hv, Bool.not_false, if_true, Host.Outcome.next.injEq] at h
        subst h
        exact .rejectArgument hi hb
    all_goals
      simp only [Host.Outcome.next.injEq] at h
      subst h
    · exact .waitAnswers hi hb
    · exact .stb _ _ hi hb
    · exact .ldb _ hi hb

/-- Everything an executed slot command can do, where it is not held. -/
theorem exec_slot_shape {s u : State} {i : Instr} (hr : s.seqRun = true) (hc : currentSlot s = some i)
    (hh : slotHeld i s = false) (h : exec i s = .next u) : SeqShape s u := by
  have hs := currentSlot_isSlot hc
  cases i <;> simp only [Instr.isHostOp, reduceCtorEq] at hs
  case start =>
    simp only [exec, execStart, Host.Outcome.next.injEq] at h
    subst h
    exact .start hr hc
  case stop =>
    simp only [exec, execStop, Host.Outcome.next.injEq] at h
    subst h
    exact .stop hr hc
  case write ackCheck =>
    simp only [exec, execWrite] at h
    split at h
    · rename_i hq
      rw [slotHeld, (txeLevel_iff s).2 hq] at hh
      exact nomatch hh
    · rename_i b rest hq
      simp only [Host.Outcome.next.injEq] at h
      subst h
      exact .write ackCheck b rest hr hc hq
  case read ackVal =>
    simp only [slotHeld] at hh
    simp only [exec, execRead, hh, Bool.false_eq_true, if_false, Host.Outcome.next.injEq] at h
    subst h
    exact .read ackVal hr hc (fun e => by rw [(rxfLevel_iff s).2 e] at hh; exact nomatch hh)

/-- The agent whose step it was, and everything that step can do. -/
theorem step_agents {s t : State} (h : step s = .next t) :
    (∃ u, moveEnabled s .host = true ∧ takeMove .host s = .next u ∧ HostShape s u ∧ t = consumeInput u) ∨
    (irqLine s = true ∧ t = consumeInput (takeInterrupt s)) ∨
    (∃ u, SeqShape s u ∧ t = consumeInput u) := by
  obtain ⟨m, u, he, hu, rfl⟩ := step_cases h
  cases m
  case host =>
    refine .inl ⟨u, he, hu, ?_, rfl⟩
    rcases hostStep_cases he hu with ⟨hw, hs, rfl⟩ | ⟨hw, hp, w, i, -, hd, hx⟩
    · exact .wake hw hs
    · exact exec_host_shape ⟨hw, hp⟩ (decodeHcmd_isHostOp hd) hx
  case irq =>
    simp only [takeMove, Host.Outcome.next.injEq] at hu
    subst hu
    exact .inr (.inl ⟨he, rfl⟩)
  case seqNormal =>
    obtain ⟨hr, i, hc, hh, hx⟩ := seqNormal_cases he hu
    exact .inr (.inr ⟨u, exec_slot_shape hr hc hh hx, rfl⟩)
  case seqArbLoss =>
    simp only [takeMove, Host.Outcome.next.injEq] at hu
    subst hu
    simp only [moveEnabled, seqNormalEnabled, Bool.and_eq_true] at he
    cases hs : currentSlot s with
    | none => simp [hs] at he
    | some i => exact .inr (.inr ⟨_, .arbLoss i he.1 hs (by simpa [hs] using he.2), rfl⟩)
  case seqHang =>
    simp only [takeMove, Host.Outcome.next.injEq] at hu
    subst hu
    exact .inr (.inr ⟨_, .hang he, rfl⟩)

/-- Everything a step can do. -/
theorem step_shape {s t : State} (h : step s = .next t) : ∃ u, StepShape s u ∧ t = consumeInput u := by
  rcases step_agents h with ⟨u, -, -, hu, rfl⟩ | ⟨hi, rfl⟩ | ⟨u, hu, rfl⟩
  · exact ⟨u, .host hu, rfl⟩
  · exact ⟨_, .irq hi, rfl⟩
  · exact ⟨u, .seq hu, rfl⟩

end Sys2Proof.Machine
end

