-- ==== Sys2Proof/Laws/Transaction.lean ====
section
/-!
SUPPORT. The slots of a transaction in progress: the slot SEQ is at is the one the builder gave, where each command stands,
and how many slots of each command are completed.
-/
namespace Sys2Proof.Machine

/-- The slot SEQ is at is the slot of the built sequence. -/
theorem currentSlot_eq {s : State} (hb : BuiltInv s) (hlt : s.cmdPtr < s.cmdLen) :
    currentSlot s = (slotsOf s)[s.cmdPtr.toNat]? := by
  obtain ⟨-, hc, -, -⟩ := hb
  have hlt' : s.cmdPtr.toNat < s.cmdLen.toNat := hlt
  have h1 : s.cmd[s.cmdPtr.toNat]? = (buildWords s.opr.kind s.opr.len.toNat s.opr.checkAck)[s.cmdPtr.toNat]? := by
    rw [← hc, List.getElem?_take, if_pos hlt']
    simp
  simp only [currentSlot, fetchSlot, if_pos hlt, h1, buildWords, List.getElem?_map, slotsOf]
  cases hs : (buildSlots s.opr.kind s.opr.len.toNat s.opr.checkAck)[s.cmdPtr.toNat]? with
  | none => rfl
  | some i => simp [slotInstr_encode (buildSlots_slotOp (List.mem_of_getElem? hs))]

theorem cmdLen_toNat {s : State} (hb : BuiltInv s) : s.cmdLen.toNat = buildSize s.opr.kind s.opr.len.toNat := by
  have := buildSize_bounds hb.1
  rw [hb.2.2.1, BitVec.toNat_ofNat]
  omega

theorem txLen_toNat {s : State} (hb : BuiltInv s) : s.txLen.toNat = buildTxLen s.opr.kind s.opr.len.toNat := by
  have := buildTxLen_bounds hb.1
  rw [hb.2.2.2, BitVec.toNat_ofNat]
  omega

/-- Where each command stands in a built sequence. -/
theorem slot_pos {k : Kind} {len : Byte} {ck : Bool} {j : Nat} {i : Instr} (hv : validLen k len = true)
    (h : (buildSlots k len.toNat ck)[j]? = some i) :
    (i = .start → j + 1 < buildSize k len.toNat) ∧
    (i.isWrite = true ∨ i.isRead = true → 0 < j ∧ j + 1 < buildSize k len.toNat) ∧
    (i = .stop → j + 1 = buildSize k len.toNat ∧ 0 < j) := by
  cases k
  · rw [validLen_write_iff] at hv
    simp only [buildSlots, buildWriteSlots_get] at h
    simp only [buildSize]
    repeat' split at h
    all_goals simp only [reduceCtorEq, Option.some.injEq] at h
    all_goals subst h; simp [Instr.isWrite, Instr.isRead]
    all_goals omega
  · rw [validLen_read_iff] at hv
    simp only [buildSlots, buildReadSlots_get _ _ _ hv.1] at h
    simp only [buildSize]
    repeat' split at h
    all_goals simp only [reduceCtorEq, Option.some.injEq] at h
    all_goals subst h; simp [Instr.isWrite, Instr.isRead]
    all_goals omega

/-- The count of completed slots of one command, one slot further. -/
theorem countDone_succ {s : State} {i : Instr} (h : (slotsOf s)[s.cmdPtr.toNat]? = some i) (P : Instr → Bool) :
    ((slotsOf s).take (s.cmdPtr.toNat + 1)).countP P =
      ((slotsOf s).take s.cmdPtr.toNat).countP P + (if P i then 1 else 0) := by
  rw [List.take_add_one, List.countP_append, h]
  simp [List.countP_cons]

/-- How many slots of each command a built sequence has. -/
theorem count_total {k : Kind} {len : Byte} (ck : Bool) (hv : validLen k len = true) :
    (buildSlots k len.toNat ck).countP Instr.isWrite = buildTxLen k len.toNat ∧
    (buildSlots k len.toNat ck).countP Instr.isRead = (if k = .read then len.toNat else 0) := by
  cases k
  · simp [buildSlots, buildWriteSlots, buildTxLen, List.countP_append, List.countP_cons, Instr.isWrite, Instr.isRead,
      List.countP_replicate]
  · rw [validLen_read_iff] at hv
    simp [buildSlots, buildReadSlots, buildTxLen, List.countP_append, List.countP_cons, Instr.isWrite, Instr.isRead,
      List.countP_replicate]
    omega

theorem readsDone_le {s : State} (hb : BuiltInv s) : readsDone s ≤ 26 := by
  have h1 : readsDone s ≤ (slotsOf s).countP Instr.isRead := (List.take_sublist _ _).countP_le
  have hv := hb.1
  rw [slotsOf, (count_total s.opr.checkAck hb.1).2] at h1
  split at h1
  · rename_i hk
    rw [hk, validLen_read_iff] at hv
    omega
  · omega

theorem writesDone_le {s : State} (hb : BuiltInv s) : writesDone s ≤ s.txLen.toNat := by
  have h1 : writesDone s ≤ (slotsOf s).countP Instr.isWrite := (List.take_sublist _ _).countP_le
  rwa [slotsOf, (count_total s.opr.checkAck hb.1).1, ← txLen_toNat hb] at h1

/-- With every slot completed, every byte is transmitted and every byte is received. -/
theorem done_all {s : State} (hb : BuiltInv s) (h : s.cmdPtr = s.cmdLen) :
    writesDone s = s.txLen.toNat ∧ readsDone s = (if s.opr.kind = .read then s.opr.len.toNat else 0) := by
  have hl : (slotsOf s).take s.cmdPtr.toNat = slotsOf s :=
    List.take_of_length_le (by rw [slotsOf, buildSlots_length _ hb.1, h, cmdLen_toNat hb])
  rw [writesDone, readsDone, hl, txLen_toNat hb]
  exact count_total s.opr.checkAck hb.1

end Sys2Proof.Machine
end

