-- ==== Sys2Proof/Tests/Slice0.lean ====
section
/-!
SUPPORT. The model's own tests. Expected values come from spec/30_encoding.md R121 and spec/95_test_vectors.md (the vector is
named), never from the model. The theorems `test_hyp_<Statement>` each show a concrete state and operands that meet all
hypotheses of that statement.
-/
namespace Sys2Proof.Tests
open Sys2Proof Sys2Proof.Machine

/-! The decoder, on words written out bit by bit (R101, R104). -/

/-- E1: HOP 0001, BLOCK 1, CHECKACK 1, 000, DEVADDR 1010000, STARTREG 00010000, LEN 00000010. -/
theorem test_decode_wrreg :
    decode 0b0001_1_1_000_1010000_00010000_00000010#32 = .ok (.wrreg true true 0x50#7 0x10#8 2#8) := by decide

/-- E3: HOP 0001, BLOCK 1, CHECKACK 0, 000, DEVADDR 1010001, STARTREG 00010000, LEN 00000010. -/
theorem test_decode_wrreg_unchecked :
    decode 0b0001_1_0_000_1010001_00010000_00000010#32 = .ok (.wrreg true false 0x51#7 0x10#8 2#8) := by decide

/-- E4: HOP 0010, 0, CHECKACK 1, 000, DEVADDR 1010000, STARTREG 00010000, LEN 00000011. -/
theorem test_decode_rdreg :
    decode 0b0010_0_1_000_1010000_00010000_00000011#32 = .ok (.rdreg true 0x50#7 0x10#8 3#8) := by decide

/-- E6: HOP 0011, all else 0. -/
theorem test_decode_wait : decode 0b0011_0000000000000000000000000000#32 = .ok .wait := by decide

/-- E7: HOP 0100, zero, IDX 00000000, VAL 10101011. -/
theorem test_decode_stb : decode 0b0100_000000000000_00000000_10101011#32 = .ok (.stb 0#8 0xAB#8) := by decide

/-- E9: HOP 0101, zero, IDX 00000001, VAL zero. -/
theorem test_decode_ldb : decode 0b0101_000000000000_00000001_00000000#32 = .ok (.ldb 1#8) := by decide

/-- R104: OP 001. -/
theorem test_decode_start : decode 0b00000000000000000000000000000_001#32 = .ok .start := by decide

/-- R104: ACK_CHECK 1, OP 010. -/
theorem test_decode_write : decode 0b0000000000000000000000000000_1_010#32 = .ok (.write true) := by decide

/-- R104: ACK_VAL 1, bit 3 zero, OP 011. -/
theorem test_decode_read : decode 0b000000000000000000000000000_1_0_011#32 = .ok (.read true) := by decide

/-- R104: OP 100. -/
theorem test_decode_stop : decode 0b00000000000000000000000000000_100#32 = .ok .stop := by decide

/-- E10: every field at its maximum. -/
theorem test_decode_maxima : decode 0x1C7FFFFF#32 = .ok (.wrreg true true 0x7F#7 0xFF#8 0xFF#8) := by decide

/-- E11 to E18: the reserved host words. -/
theorem test_reserved_host_words :
    decodeHcmd 0#32 = .error (.reservedHop 0#4) ∧
    decodeHcmd 0x60000000#32 = .error (.reservedHop 6#4) ∧
    decodeHcmd 0xF0000000#32 = .error (.reservedHop 15#4) ∧
    decodeHcmd 0x2C501003#32 = .error (.hcmdMustBeZero 2#4) ∧
    decodeHcmd 0x10801002#32 = .error (.hcmdMustBeZero 1#4) ∧
    decodeHcmd 0x1FFFFFFF#32 = .error (.hcmdMustBeZero 1#4) ∧
    decodeHcmd 0x30000001#32 = .error (.hcmdMustBeZero 3#4) ∧
    decodeHcmd 0x40010000#32 = .error (.hcmdMustBeZero 4#4) ∧
    decodeHcmd 0x50000101#32 = .error (.hcmdMustBeZero 5#4) := by decide

/-- Section 3: the slot words that are not executable. -/
theorem test_reserved_slot_words :
    decodeSlot 0#32 = .error .emptySlot ∧
    decodeSlot 5#32 = .error (.reservedOp 5#3) ∧
    decodeSlot 7#32 = .error (.reservedOp 7#3) ∧
    decodeSlot 0x9#32 = .error (.slotMustBeZero 1#3) ∧
    decodeSlot 0x12#32 = .error (.slotMustBeZero 2#3) ∧
    decodeSlot 0xB#32 = .error (.slotMustBeZero 3#3) ∧
    decodeSlot 0x24#32 = .error (.slotMustBeZero 4#3) := by decide

/-- R121: the encoder on the worked encodings. -/
theorem test_encode_worked :
    encode (.wrreg true true 0x50#7 0x10#8 2#8) = 0x1C501002#32 ∧
    encode (.wrreg false true 0x50#7 0x10#8 2#8) = 0x14501002#32 ∧
    encode (.rdreg true 0x50#7 0x10#8 3#8) = 0x24501003#32 ∧
    encode .wait = 0x30000000#32 ∧ encode (.stb 0#8 0xAB#8) = 0x400000AB#32 ∧ encode (.ldb 1#8) = 0x50000100#32 ∧
    encode (.write true) = 0xA#32 ∧ encode (.read true) = 0x13#32 := by decide

/-! WellFormed: an ill-formed term for each check, refused (R118, R119). -/

theorem test_wf_wrreg_dev : (AsmLine.wrreg 128 0 1 0 0).wf = false := by decide
theorem test_wf_wrreg_reg : (AsmLine.wrreg 0 256 1 0 0).wf = false := by decide
theorem test_wf_wrreg_len : (AsmLine.wrreg 0 0 256 0 0).wf = false := by decide
theorem test_wf_wrreg_block : (AsmLine.wrreg 0 0 1 2 0).wf = false := by decide
theorem test_wf_wrreg_checkAck : (AsmLine.wrreg 0 0 1 0 2).wf = false := by decide
theorem test_wf_rdreg_dev : (AsmLine.rdreg 128 0 1 0).wf = false := by decide
theorem test_wf_rdreg_reg : (AsmLine.rdreg 0 256 1 0).wf = false := by decide
theorem test_wf_rdreg_len : (AsmLine.rdreg 0 0 256 0).wf = false := by decide
theorem test_wf_rdreg_checkAck : (AsmLine.rdreg 0 0 1 2).wf = false := by decide
theorem test_wf_stb_idx : (AsmLine.stb 256 0).wf = false := by decide
theorem test_wf_stb_val : (AsmLine.stb 0 256).wf = false := by decide
theorem test_wf_ldb_idx : (AsmLine.ldb 256).wf = false := by decide
theorem test_wf_host_program_slot : wfHostProgram [.wait, .start] = false := by decide
theorem test_wf_host_program : wfHostProgram [.stb 0#8 0#8, .wait] = true := by decide

/-! The builder: B2, B5, B6c, and the TX stream (section 4). -/

theorem test_build_write : buildWords .write 2 true = [0x01#32, 0x0A#32, 0x0A#32, 0x0A#32, 0x0A#32, 0x04#32] := by decide

theorem test_build_read_one :
    buildWords .read 1 true = [0x01#32, 0x0A#32, 0x0A#32, 0x01#32, 0x0A#32, 0x13#32, 0x04#32] := by decide

theorem test_build_read_full :
    buildWords .read 26 false = [0x01#32, 0x02#32, 0x02#32, 0x01#32, 0x02#32] ++ List.replicate 25 0x03#32
      ++ [0x13#32, 0x04#32] := by decide

theorem test_address_byte :
    addrByte 0x50#7 false = 0xA0#8 ∧ addrByte 0x50#7 true = 0xA1#8 ∧ addrByte 0x7F#7 true = 0xFF#8 := by decide

/-! The states the vectors start from. -/

/-- A controller with both depths 1, the host program `ws`, BUF[0..1] = 0xAB, 0xCD, and one input listed. -/
def ready (ws : List Word) (m : Move) (a : Ack) (b : Byte) : State :=
  { State.resetWith ⟨1, 1, 0, 0, 0, 0, 0⟩ ws with buf := ⟨[(0, 0xAB#8), (1, 0xCD#8)]⟩, inputs := [⟨m, a, b⟩] }

/-- The write of E1 armed and HOST blocked, the next input naming the move m. -/
def writing (m : Move) (a : Ack) : State :=
  { arm .write 0x50#7 0x10#8 2#8 true (ready [0x1C501002#32] m a 0#8) with hwait := true }

/-- That write after START. -/
def writing1 (m : Move) (a : Ack) : State :=
  { writing m a with cmdPtr := 1#6, busOwn := true, trace := [.start] }

/-- That write held at its second WRITE: TXFIFO empty, TXE pending. -/
def writingHeld (m : Move) : State :=
  { writing m .ack with
    cmdPtr := 2#6, busOwn := true, trace := [.start, .written 0xA0#8 .ack], txFifo := [], intPend := 0x01#6 }

/-- That write after a missing acknowledgment at slot 1 (S5). -/
def writingNack (m : Move) : State :=
  { writing m .ack with
    cmdPtr := 1#6, busOwn := true, trace := [.start, .written 0xA0#8 .nack], txFifo := [], intPend := 0x05#6,
    seqRun := false }

/-- The read of E4 armed and HOST blocked. -/
def reading (m : Move) (b : Byte) : State :=
  { arm .read 0x50#7 0x10#8 3#8 true (ready [0x24501003#32] m .ack b) with hwait := true }

/-- That read at its first READ slot, all three bytes transmitted. -/
def reading5 (m : Move) (b : Byte) : State :=
  { reading m b with cmdPtr := 5#6, busOwn := true, txFifo := [], txIdx := 3#5 }

/-- That read held at its second READ slot: RXFIFO full, RXF pending. -/
def readingHeld (m : Move) : State :=
  { reading5 m 0#8 with cmdPtr := 6#6, rxFifo := [0x11#8], intPend := 0x02#6 }

/-- That read with every slot completed, its last byte still in RXFIFO. -/
def readingDone (m : Move) : State :=
  { reading m 0#8 with
    cmdPtr := 9#6, txFifo := [], txIdx := 3#5, buf := ⟨[(0, 0x11#8), (1, 0x22#8)]⟩, rxIdx := 2#5, rxFifo := [0x33#8],
    intPend := 0x12#6, seqRun := false }

theorem inv_writing (m : Move) (a : Ack) : Inv (writing m a) :=
  ⟨by cases m <;> cases a <;> decide, by cases m <;> cases a <;> decide, fun _ =>
    ⟨by cases m <;> cases a <;> decide, by cases m <;> cases a <;> decide, by cases m <;> cases a <;> decide,
      by cases m <;> cases a <;> decide⟩⟩

theorem inv_writing1 : Inv (writing1 .seqNormal .ack) :=
  ⟨by decide, by decide, fun _ => ⟨by decide, by decide, by decide, by decide⟩⟩

theorem inv_writingHeld : Inv (writingHeld .irq) :=
  ⟨by decide, by decide, fun _ => ⟨by decide, by decide, by decide, by decide⟩⟩

theorem inv_writingNack : Inv (writingNack .irq) :=
  ⟨by decide, by decide, fun _ => ⟨by decide, by decide, by decide, by decide⟩⟩

theorem inv_reading5 : Inv (reading5 .seqNormal 0x11#8) :=
  ⟨by decide, by decide, fun _ => ⟨by decide, by decide, by decide, by decide⟩⟩

theorem inv_readingHeld : Inv (readingHeld .irq) :=
  ⟨by decide, by decide, fun _ => ⟨by decide, by decide, by decide, by decide⟩⟩

theorem inv_readingDone : Inv (readingDone .irq) :=
  ⟨by decide, by decide, fun _ => ⟨by decide, by decide, by decide, by decide⟩⟩

/-- The state a step gives, and the reset state where it gives none. -/
def nextOf : StepResult → State
  | .next t => t
  | .fault _ => State.reset
  | .refused _ => State.reset

/-! Host operations. -/

/-- H7: a write that goes on, TXDEPTH 1. -/
theorem test_wrreg_arms :
    let t := nextOf (exec (.wrreg false true 0x50#7 0x10#8 2#8) (ready [0x14501002#32] .host .ack 0#8))
    t.resp = 0x80000006#32 ∧ t.cmdLen = 6#6 ∧ t.txLen = 4#5 ∧ t.txIdx = 1#5 ∧ t.txFifo = [0xA0#8] ∧
      t.intEna = 0x3F#6 ∧ t.tstate = .inProgress ∧ t.seqRun = true ∧ t.hwait = false ∧ t.hpc = 1 := by decide

/-- B7: LEN 29. -/
theorem test_wrreg_too_long :
    (nextOf (exec (.wrreg true true 0x50#7 0x10#8 29#8) (ready [] .host .ack 0#8))).resp = 0x80000005#32 := by decide

/-- B10: LEN 26 fills the command buffer. -/
theorem test_rdreg_full :
    (nextOf (exec (.rdreg true 0x50#7 0x10#8 26#8) (ready [] .host .ack 0#8))).cmdLen = 32#6 := by decide

/-- B8: LEN 27. -/
theorem test_rdreg_too_long :
    (nextOf (exec (.rdreg true 0x50#7 0x10#8 27#8) (ready [] .host .ack 0#8))).resp = 0x80000005#32 := by decide

/-- H1: no transaction ever ran. -/
theorem test_wait_at_reset : (nextOf (exec .wait State.reset)).resp = 0x80000004#32 := by decide

/-- H9: the cached Nack, and the release left over consumed. -/
theorem test_wait_cached :
    let t := nextOf (exec .wait { State.reset with tstate := .completedNack, sig := true })
    t.resp = 0x80000001#32 ∧ t.sig = false ∧ t.tstate = .completedNack := by decide

/-- H2. -/
theorem test_stb : (nextOf (exec (.stb 0#8 0xAB#8) State.reset)).buf = ⟨[(0, 0xAB#8)]⟩ := by decide

/-- H13. -/
theorem test_ldb :
    (nextOf (exec (.ldb 1#8) { State.reset with tstate := .completedOk, buf := ⟨[(1, 0x22#8)]⟩ })).resp
      = 0x80002200#32 := by decide

/-- H11: the wake step after CompletedTimeout. -/
theorem test_wake :
    let t := wake { State.reset with tstate := .completedTimeout, sig := true, hwait := true }
    t.resp = 0x80000002#32 ∧ t.sig = false ∧ t.hwait = false ∧ t.hpc = 1 := by decide

/-! Slot commands. -/

/-- S1, by a whole step. -/
theorem test_start :
    let t := nextOf (step (writing .seqNormal .ack))
    t.trace = [.start] ∧ t.busOwn = true ∧ t.cmdPtr = 1#6 := by decide

/-- S2: the bus is held, so the start is repeated. -/
theorem test_restart :
    let t := nextOf (exec .start { reading .seqNormal 0#8 with cmdPtr := 3#6, busOwn := true })
    t.trace = [.restart] ∧ t.busOwn = true ∧ t.cmdPtr = 4#6 := by decide

/-- S5: a missing acknowledgment that is checked. -/
theorem test_write_nack :
    let t := nextOf (step (writing1 .seqNormal .nack))
    t.trace = [.start, .written 0xA0#8 .nack] ∧ t.txFifo = [] ∧ t.intPend = 0x05#6 ∧ t.seqRun = false ∧
      t.cmdPtr = 1#6 := by decide

/-- S6: a missing acknowledgment that is ignored. -/
theorem test_write_ignored :
    let t := nextOf (exec (.write false) (writing1 .seqNormal .nack))
    t.intPend = 0x01#6 ∧ t.seqRun = true ∧ t.cmdPtr = 2#6 := by decide

/-- S9: RXDEPTH 1. -/
theorem test_read_fills :
    let t := nextOf (step (reading5 .seqNormal 0x11#8))
    t.rxFifo = [0x11#8] ∧ t.trace = [.received 0x11#8 .ack] ∧ t.intPend = 0x02#6 ∧ t.cmdPtr = 6#6 := by decide

/-- S11: READ.N, RXDEPTH 4. -/
theorem test_read_last :
    let s := { reading5 .seqNormal 0x33#8 with
      cmdPtr := 7#6, rxFifo := [0x11#8, 0x22#8], params := ⟨1, 4, 0, 0, 0, 0, 0⟩ }
    let t := nextOf (exec (.read true) s)
    t.rxFifo = [0x11#8, 0x22#8, 0x33#8] ∧ t.trace = [.received 0x33#8 .nack] ∧ t.intPend = 0#6 ∧ t.cmdPtr = 8#6 := by
  decide

/-- S12. -/
theorem test_stop :
    let t := nextOf (exec .stop { writing .seqNormal .ack with cmdPtr := 5#6, busOwn := true })
    t.trace = [.stop] ∧ t.busOwn = false ∧ t.cmdPtr = 6#6 ∧ t.intPend = 0x10#6 ∧ t.seqRun = false := by decide

/-- S13, at a held slot. -/
theorem test_hang :
    let t := nextOf (step (writingHeld .seqHang))
    t.trace = [.start, .written 0xA0#8 .ack, .notCompleted .write] ∧ t.intPend = 0x09#6 ∧ t.seqRun = false ∧
      t.cmdPtr = 2#6 ∧ t.busOwn = true := by decide

/-- S14, at slot 0. -/
theorem test_arbitration_loss :
    let t := nextOf (step (writing .seqArbLoss .ack))
    t.trace = [.notCompleted .start] ∧ t.intPend = 0x20#6 ∧ t.seqRun = false ∧ t.cmdPtr = 0#6 := by decide

/-! The classifier. -/

/-- K1: TXE served. -/
theorem test_service_feed :
    let t := nextOf (step (writingHeld .irq))
    t.txFifo = [0x10#8] ∧ t.txIdx = 2#5 ∧ t.intPend = 0#6 ∧ t.tstate = .inProgress ∧ t.intEna = 0x3F#6 := by decide

/-- K4 and K10: RXF served with TXE, the feed pushing nothing. -/
theorem test_service_drain :
    let t := takeInterrupt { readingHeld .irq with intPend := 0x03#6 }
    t.buf = ⟨[(0, 0x11#8), (1, 0xCD#8)]⟩ ∧ t.rxIdx = 1#5 ∧ t.rxFifo = [] ∧ t.txFifo = [] ∧ t.intPend = 0#6 := by decide

/-- K3: after S5. -/
theorem test_abort_nack :
    let t := nextOf (step (writingNack .irq))
    t.tstate = .completedNack ∧ t.intEna = 0#6 ∧ t.intPend = 0#6 ∧ t.sig = true ∧ t.cmdPtr = 0#6 ∧ t.busOwn = false ∧
      t.trace = [.start, .written 0xA0#8 .nack, .released .nack] ∧ t.buf = ⟨[(0, 0xAB#8), (1, 0xCD#8)]⟩ := by decide

/-- K6: the bus was never held, so nothing is released. -/
theorem test_abort_before_start :
    let t := takeInterrupt { writing .irq .ack with
      intPend := 0x20#6, seqRun := false, trace := [.notCompleted .start] }
    t.tstate = .completedArbLost ∧ t.trace = [.notCompleted .start] := by decide

/-- K8: the end of the read. -/
theorem test_complete :
    let t := nextOf (step (readingDone .irq))
    t.buf = ⟨[(0, 0x11#8), (1, 0x22#8), (2, 0x33#8)]⟩ ∧ t.rxIdx = 3#5 ∧ t.tstate = .completedOk ∧ t.sig = true := by decide

/-- K11 and K12: the priority. -/
theorem test_priority : classify 0x2C#6 = .abort .arbLost ∧ classify 0x14#6 = .abort .nack := by decide

/-! The fixed names the host uses. -/

theorem test_fetch_host_word :
    step (State.reset.withFetchWord 32 0x30000000) = consumed (exec .wait (State.reset.withFetchWord 32 0x30000000)) := rfl

theorem test_fetch_slot_word :
    step (State.reset.withFetchWord 32 0xA) = consumed (exec (.write true) (State.reset.withFetchWord 32 0xA)) := rfl

theorem test_table_word :
    decodeTableWord 32 0x1C501002 = some (.wrreg true true 0x50#7 0x10#8 2#8) ∧ decodeTableWord 32 0 = none := by decide

theorem test_end_of_run : step (ready [] .host .ack 0#8) = .fault .endOfRun := rfl

/-! The hypotheses of the statements can be met: encoding and builder. -/

theorem test_hyp_EncodeOfDecodeIsTheWord : ∃ w i, decode w = .ok i := ⟨0x1C501002#32, _, test_decode_wrreg⟩

theorem test_hyp_RowsAreDisjointAndDecodersFollowThem :
    wrregRow ∈ hcmdRows ++ slotRows ∧ wrregRow.selects 0x1C7FFFFF#32 = true ∧
    stopRow ∈ hcmdRows ++ slotRows ∧ stopRow.selects 4#32 = true := by decide

/-- Every operand at its largest value. -/
theorem test_hyp_AssemblerRejectsOutOfRangeOperands :
    (assemble (.wrreg 127 255 255 1 1)).isSome = true ∧ (assemble (.rdreg 127 255 255 1)).isSome = true ∧
    (assemble (.stb 255 255)).isSome = true ∧ (assemble (.ldb 255)).isSome = true := by decide

/-- R118: every operand just above its range is rejected. -/
theorem test_assemble_rejects :
    assemble (.wrreg 128 0 0 0 0) = none ∧ assemble (.wrreg 0 256 0 0 0) = none ∧ assemble (.wrreg 0 0 256 0 0) = none ∧
    assemble (.wrreg 0 0 0 2 0) = none ∧ assemble (.wrreg 0 0 0 0 2) = none ∧ assemble (.rdreg 128 0 0 0) = none ∧
    assemble (.rdreg 0 256 0 0) = none ∧ assemble (.rdreg 0 0 256 0) = none ∧ assemble (.rdreg 0 0 0 2) = none ∧
    assemble (.stb 256 0) = none ∧ assemble (.stb 0 256) = none ∧ assemble (.ldb 256) = none := by decide

theorem test_hyp_ReservedHostWordIsRefused :
    (∀ r ∈ hcmdRows, r.selects 0x2C501003#32 = false) ∧
    let s := ready [0x2C501003#32] .host .ack 0#8
    s.hwait = false ∧ s.prog[s.hpc]? = some 0x2C501003#32 := by decide

theorem test_hyp_ReservedSlotWordLeavesOnlyTheHang :
    4#32 ∈ buildWords .write 1 true ∧
    let s := { writing .seqHang .ack with cmd := Vector.replicate 32 0x9#32 }
    s.seqRun = true ∧ fetchSlot s = some 0x9#32 ∧ ∀ r ∈ slotRows, r.selects 0x9#32 = false := by decide

/-- The smallest and the largest length of each direction. -/
theorem test_hyp_BuiltSequenceHasItsShape :
    validLen .write 1#8 = true ∧ validLen .write 28#8 = true ∧ validLen .read 1#8 = true ∧ validLen .read 26#8 = true ∧
    ((buildSlots .read 1 true)[4]?).any Instr.isWrite = true ∧ ((buildSlots .read 1 true)[5]?).any Instr.isRead = true ∧
    (buildSlots .write 28 false)[30]? = some (.write false) ∧ (buildSlots .read 26 true)[4]? = some (.write true) := by
  decide

theorem test_hyp_LengthCheckIsTheBufferCapacity : 1 ≤ (1#8 : Byte).toNat ∧ 1 ≤ (255#8 : Byte).toNat := by decide

/-- A read, and a write whose first and last payload byte hold a value. -/
theorem test_hyp_TransmitStreamBytes :
    (reading .host 0#8).opr.kind = .read ∧ (writing .host .ack).opr.kind = .write ∧
    bufGet (writing .host .ack).buf (BitVec.ofNat 8 0) = some 0xAB#8 ∧
    bufGet (bufSet (writing .host .ack).buf 27#8 0x77#8) (BitVec.ofNat 8 27) = some 0x77#8 := by decide

/-! Host operations. -/

theorem test_hyp_BusyOperationIsRejected : (writing .host .ack).tstate = .inProgress := by decide

/-- LEN at each boundary of the ranges that are rejected, and a busy state. -/
theorem test_hyp_LengthOutOfRangeIsRejected :
    State.reset.tstate ≠ .inProgress ∧ ((0#8 : Byte).toNat = 0 ∨ 28 < (0#8 : Byte).toNat) ∧
    ((29#8 : Byte).toNat = 0 ∨ 28 < (29#8 : Byte).toNat) ∧ ((27#8 : Byte).toNat = 0 ∨ 26 < (27#8 : Byte).toNat) ∧
    (writing .host .ack).tstate = .inProgress := by decide

theorem test_hyp_AcceptedWrregArmsTheTransaction :
    State.reset.tstate ≠ .inProgress ∧ 1 ≤ (1#8 : Byte).toNat ∧ (1#8 : Byte).toNat ≤ 28 ∧
    1 ≤ (28#8 : Byte).toNat ∧ (28#8 : Byte).toNat ≤ 28 := by decide

theorem test_hyp_AcceptedRdregArmsTheTransaction :
    State.reset.tstate ≠ .inProgress ∧ 1 ≤ (1#8 : Byte).toNat ∧ (1#8 : Byte).toNat ≤ 26 ∧
    1 ≤ (26#8 : Byte).toNat ∧ (26#8 : Byte).toNat ≤ 26 := by decide

theorem test_hyp_WaitBlocksOrAnswersTheCachedResult :
    (writing .host .ack).tstate = .inProgress ∧ State.reset.tstate ≠ .inProgress ∧ ∃ t, exec .wait State.reset = .next t :=
  ⟨by decide, by decide, _, rfl⟩

theorem test_hyp_StbStoresItsByte : State.reset.tstate ≠ .inProgress ∧ (1#8 : Byte) ≠ 0#8 := by decide

theorem test_hyp_LdbAnswersTheByte :
    (ready [] .host .ack 0#8).tstate ≠ .inProgress ∧ bufGet (ready [] .host .ack 0#8).buf 1#8 = some 0xCD#8 := by decide

/-- A host program of one blocking write, run through its arm step, a hang and the abort. -/
def hung : State :=
  nextOf (step (nextOf (step (nextOf (step { State.resetWith ⟨1, 1, 0, 0, 0, 0, 0⟩ [0x1C501001#32] with
    inputs := [⟨.host, .ack, 0#8⟩, ⟨.seqHang, .ack, 0#8⟩, ⟨.irq, .ack, 0#8⟩, ⟨.host, .ack, 0#8⟩] })))))

theorem hung_reachable : Reachable ⟨1, 1, 0, 0, 0, 0, 0⟩ [0x1C501001#32] hung :=
  .step (.step (.step (.reset [⟨.host, .ack, 0#8⟩, ⟨.seqHang, .ack, 0#8⟩, ⟨.irq, .ack, 0#8⟩, ⟨.host, .ack, 0#8⟩]) rfl) rfl) rfl

theorem test_hyp_WakeReturnsTheTerminalResult :
    Params.wf ⟨1, 1, 0, 0, 0, 0, 0⟩ ∧ Reachable ⟨1, 1, 0, 0, 0, 0, 0⟩ [0x1C501001#32] hung ∧ hung.hwait = true ∧
    hung.sig = true ∧ (writing .host .ack).hwait = true ∧ (writing .host .ack).sig = false :=
  ⟨by decide, hung_reachable, by decide, by decide, by decide, by decide⟩

theorem test_hyp_HostOperationFrame :
    (Instr.stb 0#8 0#8).isHostOp = true ∧ ∃ t, exec (.stb 0#8 0#8) State.reset = .next t ∧
      (t.tstate ≠ .inProgress ∨ State.reset.tstate = .inProgress) ∧ (Instr.stb 0#8 0#8) ≠ .wait ∧
      ∀ v, (Instr.stb 0#8 0#8) ≠ .stb 1#8 v :=
  ⟨rfl, _, rfl, .inl (by decide), by decide, fun _ h => by cases h⟩

/-! Slot commands. -/

theorem test_hyp_WriteTransmitsOneByte : (writing1 .seqNormal .nack).txFifo = 0xA0#8 :: [] := by decide

theorem test_hyp_ReadReceivesOneByte :
    (reading5 .seqNormal 0x11#8).rxFifo.length ≠ (reading5 .seqNormal 0x11#8).params.rxDepth := by decide

theorem test_hyp_SlotCommandFrame :
    Instr.stop.isHostOp = false ∧ Instr.stop.isWrite = false ∧ Instr.stop.isRead = false ∧
    (Instr.read true).isRead = true ∧ (∃ t, exec .stop (writing .seqNormal .ack) = .next t) ∧
    ∃ t, exec (.read true) (reading5 .seqNormal 0#8) = .next t :=
  ⟨rfl, rfl, rfl, rfl, ⟨_, rfl⟩, _, rfl⟩

theorem test_hyp_HeldSlotLeavesOnlyTheHang :
    (writingHeld .irq).seqRun = true ∧ currentSlot (writingHeld .irq) = some (.write true) ∧
    (writingHeld .irq).txFifo = [] ∧ (readingHeld .irq).seqRun = true ∧
    currentSlot (readingHeld .irq) = some (.read false) ∧
    (readingHeld .irq).rxFifo.length = (readingHeld .irq).params.rxDepth := by decide

theorem test_hyp_HangRaisesTimeoutAndHalts :
    (writingHeld .seqHang).seqRun = true ∧ currentSlot (writingHeld .seqHang) = some (.write true) ∧
    slotKindOf (.write true) = some .write := by decide

theorem test_hyp_ArbitrationLossRaisesArblostAndHalts :
    (writing .seqArbLoss .ack).seqRun = true ∧ currentSlot (writing .seqArbLoss .ack) = some .start ∧
    slotHeld .start (writing .seqArbLoss .ack) = false ∧ slotKindOf .start = some .start := by decide

/-! The classifier. -/

/-- One snapshot for each of its five outcomes, and one under which IRQ has no step. -/
theorem test_hyp_ClassifierFollowsThePriority :
    ∀ p ∈ [0x3F#6, 0x1F#6, 0x17#6, 0x13#6, 0x03#6],
      let s := { writing .irq .ack with intPend := p }
      s.intPend &&& s.intEna ≠ 0#6 ∧ moveEnabled s .irq = true ∧
        moveEnabled { s with intPend := 0x01#6, intEna := 0x3E#6 } .irq = false := by decide

/-- Statements DrainStoresOldestFirst and CompleteDrainsAndRecordsOk, at the bound. -/
theorem test_hyp_DrainStoresOldestFirst :
    let s := { readingDone .irq with rxIdx := 30#5 }
    s.rxIdx.toNat + s.rxFifo.length ≤ 31 ∧ 0 < s.rxFifo.length ∧
    ((0#8 : Byte).toNat < s.rxIdx.toNat ∨ s.rxIdx.toNat + s.rxFifo.length ≤ (0#8 : Byte).toNat) := by decide

theorem test_hyp_CompleteDrainsAndRecordsOk :
    (readingDone .irq).rxIdx.toNat + (readingDone .irq).rxFifo.length ≤ 31 := by decide

theorem test_hyp_ClassifierServesEveryPendingEvent : Inv (writingHeld .irq) ∧ irqLine (writingHeld .irq) = true :=
  ⟨inv_writingHeld, by decide⟩

/-! The machine as a whole. -/

theorem test_hyp_StepRunsTheDecodedInstruction :
    (let s := ready [0x1C501002#32] .host .ack 0#8
     s.hwait = false ∧ (currentInput s).move = .host ∧ s.prog[s.hpc]? = some 0x1C501002#32 ∧
      decodeHcmd 0x1C501002#32 = .ok (.wrreg true true 0x50#7 0x10#8 2#8)) ∧
    (let s := writing1 .seqNormal .ack
     s.seqRun = true ∧ (currentInput s).move = .seqNormal ∧ s.cmdPtr < s.cmdLen ∧
      s.cmd[s.cmdPtr.toNat]? = some 0xA#32 ∧ decodeSlot 0xA#32 = .ok (.write true) ∧
      slotHeld (.write true) s = false) := by decide

/-- Statements AnyEnabledStepMayBeTaken, ResponseIsWrittenWhenHpcAdvances and EveryStepFrame. -/
theorem test_hyp_AnyEnabledStepMayBeTaken :
    (∃ t, step (writing .seqNormal .ack) = .next t) ∧ moveEnabled (writing .seqNormal .ack) .seqNormal = true ∧
    (currentInput (writing .seqNormal .ack)).move = .seqNormal :=
  ⟨⟨_, rfl⟩, by decide, by decide⟩

theorem test_hyp_ResponseIsWrittenWhenHpcAdvances : ∃ t, step (ready [0x30000000#32] .host .ack 0#8) = .next t := ⟨_, rfl⟩

theorem test_hyp_EveryStepFrame : ∃ t, step (writing .seqHang .ack) = .next t := ⟨_, rfl⟩

theorem test_hyp_ResetMeetsTheInvariant : Params.wf ⟨1, 1, 0, 0, 0, 0, 0⟩ := by decide

theorem test_hyp_StepKeepsTheInvariant :
    Inv (writing1 .seqNormal .ack) ∧ ∃ t, step (writing1 .seqNormal .ack) = .next t := ⟨inv_writing1, _, rfl⟩

theorem test_hyp_EveryStepLowersTheWork :
    Inv (reading5 .seqNormal 0x11#8) ∧ ∃ t, step (reading5 .seqNormal 0x11#8) = .next t := ⟨inv_reading5, _, rfl⟩

theorem test_hyp_EveryRunStops : Inv (writing .host .ack) ∧ work (writing .host .ack) < 1000 :=
  ⟨inv_writing .host .ack, by decide⟩

theorem test_hyp_OnlyFinalStatesStop : Inv (writing .irq .ack) := inv_writing .irq .ack

theorem test_hyp_HeldSlotIsLiftedByTheInterrupt :
    (Inv (writingHeld .irq) ∧ (writingHeld .irq).seqRun = true ∧ currentSlot (writingHeld .irq) = some (.write true) ∧
      slotHeld (.write true) (writingHeld .irq) = true) ∧
    Inv (readingHeld .irq) ∧ (readingHeld .irq).seqRun = true ∧ currentSlot (readingHeld .irq) = some (.read false) ∧
      slotHeld (.read false) (readingHeld .irq) = true :=
  ⟨⟨inv_writingHeld, by decide, by decide, by decide⟩, inv_readingHeld, by decide, by decide, by decide⟩

theorem inv_readyWait : Inv (ready [0x30000000#32] .host .ack 0#8) := ⟨by decide, by decide, fun h => absurd h (by decide)⟩

theorem inv_readyWrite : Inv (ready [0x1C501002#32] .host .ack 0#8) := ⟨by decide, by decide, fun h => absurd h (by decide)⟩

theorem test_hyp_RunningSequencerHasASlot :
    Inv (writing1 .seqNormal .ack) ∧ (writing1 .seqNormal .ack).seqRun = true ∧
    let s := ready [0x30000000#32] .host .ack 0#8
    Inv s ∧ s.tstate ≠ .inProgress ∧ moveEnabled s .host = true :=
  ⟨inv_writing1, by decide, inv_readyWait, by decide, by decide⟩

/-- A step that arms, a step that ends a transaction, and a step in between. -/
theorem test_hyp_TransactionStateFollowsTheTable :
    (Inv (ready [0x1C501002#32] .host .ack 0#8) ∧ ∃ t, step (ready [0x1C501002#32] .host .ack 0#8) = .next t) ∧
    (Inv (readingDone .irq) ∧ ∃ t, step (readingDone .irq) = .next t) ∧
    Inv (writing1 .seqNormal .ack) ∧ ∃ t, step (writing1 .seqNormal .ack) = .next t :=
  ⟨⟨inv_readyWrite, _, rfl⟩, ⟨inv_readingDone, _, rfl⟩, inv_writing1, _, rfl⟩

theorem inv_hung : Inv hung := ⟨by decide, by decide, fun h => absurd h (by decide)⟩

/-- A step that gives the signal, and a step that takes it. -/
theorem test_hyp_SignalIsGivenOnlyByTerminalSteps :
    (Inv (readingDone .irq) ∧ (∃ t, step (readingDone .irq) = .next t ∧ t.sig = true) ∧ (readingDone .irq).sig = false) ∧
    Inv hung ∧ (∃ t, step hung = .next t ∧ t.sig = false) ∧ hung.sig = true :=
  ⟨⟨inv_readingDone, ⟨_, rfl, by decide⟩, by decide⟩, inv_hung, ⟨_, rfl, by decide⟩, by decide⟩

theorem test_hyp_CommandBufferIsStableWhileRunning :
    Inv (writing1 .seqNormal .ack) ∧ (writing1 .seqNormal .ack).seqRun = true ∧
    ∃ t, step (writing1 .seqNormal .ack) = .next t := ⟨inv_writing1, by decide, _, rfl⟩

theorem test_hyp_BufferBelongsToTheTransaction :
    Inv (readingHeld .irq) ∧ (readingHeld .irq).tstate = .inProgress ∧
    ∃ t, step (readingHeld .irq) = .next t ∧ bufGet t.buf 0#8 ≠ bufGet (readingHeld .irq).buf 0#8 :=
  ⟨inv_readingHeld, by decide, _, rfl, by decide⟩

theorem test_hyp_TerminalStepLeavesTheBlockReady :
    Inv (readingDone .irq) ∧ (readingDone .irq).tstate = .inProgress ∧
    ∃ t, step (readingDone .irq) = .next t ∧ t.tstate ≠ .inProgress :=
  ⟨inv_readingDone, by decide, _, rfl, by decide⟩

theorem test_hyp_NackLeavesTheBuffer :
    Inv (writingNack .irq) ∧ (writingNack .irq).tstate = .inProgress ∧
    ∃ t, step (writingNack .irq) = .next t ∧ t.tstate = .completedNack :=
  ⟨inv_writingNack, by decide, _, rfl, by decide⟩

theorem test_hyp_ReceivedBytesKeepTheirOrder :
    (Inv (readingHeld .irq) ∧ (readingHeld .irq).tstate = .inProgress ∧ (readingHeld .irq).opr.kind = .read ∧
      ∃ t, step (readingHeld .irq) = .next t ∧ t.tstate = .inProgress) ∧
    Inv (readingDone .irq) ∧ (readingDone .irq).tstate = .inProgress ∧ (readingDone .irq).opr.kind = .read ∧
      ∃ t, step (readingDone .irq) = .next t ∧ t.tstate = .completedOk :=
  ⟨⟨inv_readingHeld, by decide, by decide, _, rfl, by decide⟩, inv_readingDone, by decide, by decide, _, rfl, by decide⟩

theorem test_hyp_CompletedReadFillsTheBuffer :
    Inv (readingDone .irq) ∧ (readingDone .irq).tstate = .inProgress ∧ (readingDone .irq).opr.kind = .read ∧
    ∃ t, step (readingDone .irq) = .next t ∧ t.tstate = .completedOk :=
  ⟨inv_readingDone, by decide, by decide, _, rfl, by decide⟩

/-- The write's payload and the order of its one byte in TXFIFO. -/
theorem ordered_writing1 : TxOrdered (writing1 .seqNormal .ack) := by
  intro j hj
  have h : j = 0 := by
    have : j < 1 := hj
    omega
  subst h
  rfl

theorem payload_writing : ∀ i < 2, (bufGet (⟨[(0, 0xAB#8), (1, 0xCD#8)]⟩ : Memory) (BitVec.ofNat 8 i)).isSome = true := by
  decide

theorem test_hyp_TransmitFifoHoldsTheStream :
    let s := writing1 .seqNormal .ack
    Inv s ∧ (s.tstate = .inProgress → PayloadWritten s → TxOrdered s) ∧
      ∃ t, step s = .next t ∧ t.tstate = .inProgress ∧ PayloadWritten t :=
  ⟨inv_writing1, fun _ _ => ordered_writing1, _, rfl, by decide, fun _ => payload_writing⟩

theorem test_hyp_WriteSlotSendsItsStreamByte :
    let s := writing1 .seqNormal .ack
    Inv s ∧ s.seqRun = true ∧ TxOrdered s ∧ currentSlot s = some (.write true) ∧ s.txFifo ≠ [] ∧
      ∃ t, exec (.write true) s = .next t :=
  ⟨inv_writing1, by decide, ordered_writing1, by decide, by decide, _, rfl⟩

/-- The held write of hardware unit 1, beside the write of hardware unit 0. -/
def twoUnits : Platform := ⟨[writing .irq .ack, { writingHeld .irq with params := ⟨1, 1, 0, 1, 0, 0, 0⟩ }]⟩

/-- R270: the interrupt of unit 1 moves its own controller: TXE served, TXFIFO filled, the other as it was. -/
theorem test_dispatch :
    (platformInterrupt twoUnits 1).map (fun q => q.units.map (fun s => (s.txFifo, s.intPend)))
      = some [([0xA0#8], 0#6), ([0x10#8], 0#6)] ∧
    dispatchUnit twoUnits 1 = some 1 ∧ dispatchUnit twoUnits 2 = none := by decide

theorem test_hyp_ControllersShareNothing :
    (∃ q, platformStep twoUnits 1 = some (.next q)) ∧ (∃ q, platformInterrupt twoUnits 1 = some q) ∧
    (∃ r, construct ⟨1, 1, 0, 2, 0, 0, 0⟩ [] [⟨.host, .ack, 0#8⟩] twoUnits = some r) ∧
    construct ⟨1, 1, 0, 1, 0, 0, 0⟩ [] [] twoUnits = none :=
  ⟨⟨_, rfl⟩, ⟨_, rfl⟩, ⟨_, rfl⟩, rfl⟩

theorem test_hyp_ControllersOwnTheirUnits :
    twoUnits.wf ∧ (∃ r, construct ⟨1, 1, 0, 2, 0, 0, 0⟩ [] [] twoUnits = some r) ∧
    (∃ q, platformStep twoUnits 1 = some (.next q)) ∧ (∃ q, platformInterrupt twoUnits 1 = some q) ∧
    ∃ s, twoUnits.units[1]? = some s ∧ irqLine s = true :=
  ⟨by decide, ⟨_, rfl⟩, ⟨_, rfl⟩, ⟨_, rfl⟩, _, rfl, by decide⟩

end Sys2Proof.Tests
end

section
/-!
The frame of every step (spec/00_scope.md R8, R9, R21): what no agent's step writes, proved once per list of steps of
Laws/Step.lean, and who may take the next step (R6).
-/
namespace Sys2Proof.Machine

/-! transmit -/

/-- A WRITE emits its byte with the device's answer, whether it goes on or halts. -/
@[simp] theorem transmit_trace (ackCheck : Bool) (b : Byte) (rest : List Byte) (s : State) :
    (transmit ackCheck b rest s).trace = s.trace ++ [.written b (currentInput s).ack] := by
  simp only [transmit]
  split <;> split <;> simp
@[simp] theorem transmit_params (ackCheck : Bool) (b : Byte) (rest : List Byte) (s : State) :
    (transmit ackCheck b rest s).params = s.params := by
  simp only [transmit]
  split <;> split <;> simp
@[simp] theorem transmit_prog (ackCheck : Bool) (b : Byte) (rest : List Byte) (s : State) :
    (transmit ackCheck b rest s).prog = s.prog := by
  simp only [transmit]
  split <;> split <;> simp
@[simp] theorem transmit_inputs (ackCheck : Bool) (b : Byte) (rest : List Byte) (s : State) :
    (transmit ackCheck b rest s).inputs = s.inputs := by
  simp only [transmit]
  split <;> split <;> simp
@[simp] theorem transmit_draws (ackCheck : Bool) (b : Byte) (rest : List Byte) (s : State) :
    (transmit ackCheck b rest s).draws = s.draws := by
  simp only [transmit]
  split <;> split <;> simp

/-! receive -/

/-- A READ emits its byte with the master's answer, whether or not it fills RXFIFO. -/
@[simp] theorem receive_trace (ackVal : Bool) (b : Byte) (s : State) :
    (receive ackVal b s).trace = s.trace ++ [.received b (masterAck ackVal)] := by
  simp only [receive, advance_trace]
  split <;> rfl
@[simp] theorem receive_params (ackVal : Bool) (b : Byte) (s : State) : (receive ackVal b s).params = s.params := by
  simp only [receive, advance_params]
  split <;> rfl
@[simp] theorem receive_prog (ackVal : Bool) (b : Byte) (s : State) : (receive ackVal b s).prog = s.prog := by
  simp only [receive, advance_prog]
  split <;> rfl
@[simp] theorem receive_inputs (ackVal : Bool) (b : Byte) (s : State) : (receive ackVal b s).inputs = s.inputs := by
  simp only [receive, advance_inputs]
  split <;> rfl
@[simp] theorem receive_draws (ackVal : Bool) (b : Byte) (s : State) : (receive ackVal b s).draws = s.draws := by
  simp only [receive, advance_draws]
  split <;> rfl

/-! The frame of a step. -/

/-- The parameters of the run (R8, R9, R21) and the model's inputs are the same in both states. -/
structure SameRun (s u : State) : Prop where
  params : u.params = s.params
  prog   : u.prog = s.prog
  inputs : u.inputs = s.inputs
  draws  : u.draws = s.draws

/-- TRACE is as it was or has one event more (R52). -/
def TraceGrows (s u : State) : Prop := u.trace = s.trace ∨ ∃ e, u.trace = s.trace ++ [e]

theorem HostShape.sameRun {s u : State} (h : HostShape s u) : SameRun s u := by
  cases h <;> constructor <;> rfl

/-- HOST's steps are not on the bus. -/
theorem HostShape.trace {s u : State} (h : HostShape s u) : u.trace = s.trace := by
  cases h <;> rfl

theorem SeqShape.sameRun {s u : State} (h : SeqShape s u) : SameRun s u := by
  cases h <;> constructor <;> simp [seqArbLoss, seqHang]

/-- Every step of SEQ emits exactly one event. -/
theorem SeqShape.trace {s u : State} (h : SeqShape s u) : ∃ e, u.trace = s.trace ++ [e] := by
  cases h
  case write => exact ⟨_, transmit_trace ..⟩
  case read => exact ⟨_, receive_trace ..⟩
  case start => exact ⟨_, advance_trace _⟩
  case stop => exact ⟨_, advance_trace _⟩
  case arbLoss => exact ⟨_, rfl⟩
  case hang => exact ⟨_, rfl⟩

theorem takeInterrupt_sameRun (s : State) : SameRun s (takeInterrupt s) := by
  obtain ⟨c, -, h⟩ | ⟨-, h⟩ | ⟨-, h⟩ := takeInterrupt_cases s <;> rw [h] <;> constructor <;> simp

/-- The classifier emits nothing but the release of a bus it holds, in an abort (R186). -/
theorem takeInterrupt_trace (s : State) :
    (takeInterrupt s).trace = s.trace ∨ ∃ c, (takeInterrupt s).trace = s.trace ++ [.released c] := by
  obtain ⟨c, -, h⟩ | ⟨-, h⟩ | ⟨-, h⟩ := takeInterrupt_cases s <;> rw [h]
  · rw [abort_trace]
    split
    · exact .inr ⟨c, rfl⟩
    · exact .inl rfl
  · exact .inl (complete_trace s)
  · exact .inl (service_trace _ s)

theorem StepShape.sameRun {s u : State} : StepShape s u → SameRun s u
  | .host h => h.sameRun
  | .irq _ => takeInterrupt_sameRun s
  | .seq h => h.sameRun

theorem StepShape.traceGrows {s u : State} : StepShape s u → TraceGrows s u
  | .host h => .inl h.trace
  | .irq _ => (takeInterrupt_trace s).imp_right fun ⟨c, h⟩ => ⟨.released c, h⟩
  | .seq h => .inr h.trace

/-- Settles O58: every step of `StepShape` keeps the run and grows TRACE by at most one event; consuming the input then
takes the head of the inputs and counts one step. -/
theorem everyStepFrame : Obligations.EveryStepFrame := by
  unfold Obligations.EveryStepFrame
  intro s t h
  obtain ⟨u, hu, rfl⟩ := step_shape h
  obtain ⟨hparams, hprog, hinputs, hdraws⟩ := hu.sameRun
  refine ⟨hparams, hprog, ?_, ?_, hu.traceGrows⟩
  · rw [consumeInput_inputs, hinputs]
  · rw [consumeInput_draws, hdraws]

/-- Settles O38: `step_cases` is the first half, `step_of_enabled` the second. -/
theorem anyEnabledStepMayBeTaken : Obligations.AnyEnabledStepMayBeTaken :=
  ⟨fun _ _ => step_cases, fun _ _ => step_of_enabled⟩

end Sys2Proof.Machine
end

section
/-!
The signals of the block (spec/10_state.md): who gives and takes SIG (R28), who writes the command buffer and the
operand latch (R34, R37), and when RESP is written (R47, R51). First what each agent leaves unchanged, once per agent.
-/
namespace Sys2Proof.Machine

/-! What SEQ leaves unchanged. -/

theorem transmit_sameHostSide (ackCheck : Bool) (b : Byte) (rest : List Byte) (s : State) :
    SameHostSide s (transmit ackCheck b rest s) := by
  simp only [transmit]
  split <;> split <;> constructor <;> simp

theorem receive_sameHostSide (ackVal : Bool) (b : Byte) (s : State) : SameHostSide s (receive ackVal b s) := by
  simp only [receive]
  split <;> constructor <;> simp

/-- No step of SEQ writes HOST's side of the block. -/
theorem SeqShape.sameHostSide {s u : State} (h : SeqShape s u) : SameHostSide s u := by
  cases h
  case write => exact transmit_sameHostSide ..
  case read => exact receive_sameHostSide ..
  all_goals constructor <;> simp [seqArbLoss, seqHang]

/-! What the request is: CMD, CMDLEN, OPR and TXLEN are written together, by the arm step (R214). -/

/-- The command buffer, the operand latch and TXLEN are as they were. -/
structure SameRequest (s u : State) : Prop where
  cmd    : u.cmd = s.cmd
  cmdLen : u.cmdLen = s.cmdLen
  opr    : u.opr = s.opr
  txLen  : u.txLen = s.txLen

theorem SameHostSide.sameRequest {s u : State} (h : SameHostSide s u) : SameRequest s u :=
  ⟨h.cmd, h.cmdLen, h.opr, h.txLen⟩

/-- HOST writes the request in the arm step only, which it never takes while a transaction is in progress (R212). -/
theorem HostShape.sameRequest {s u : State} (h : HostShape s u) (hb : s.tstate = .inProgress) : SameRequest s u := by
  cases h
  case armBlocking hne _ => exact absurd hb hne
  case armGoingOn hne _ => exact absurd hb hne
  all_goals constructor <;> rfl

theorem takeInterrupt_sameRequest (s : State) : SameRequest s (takeInterrupt s) := by
  obtain ⟨c, -, h⟩ | ⟨-, h⟩ | ⟨-, h⟩ := takeInterrupt_cases s <;> rw [h] <;> constructor <;> simp

theorem StepShape.sameRequest {s u : State} (hb : s.tstate = .inProgress) : StepShape s u → SameRequest s u
  | .host h => h.sameRequest hb
  | .irq _ => takeInterrupt_sameRequest s
  | .seq h => h.sameHostSide.sameRequest

/-- SEQ runs in a transaction only. -/
theorem Inv.inProgress_of_seqRun {s : State} (hI : Inv s) (hr : s.seqRun = true) : s.tstate = .inProgress :=
  hI.mode.1 hr

/-- Settles O49: SEQ runs in a transaction only, and in a transaction no agent's step writes the request. -/
theorem commandBufferIsStableWhileRunning : Obligations.CommandBufferIsStableWhileRunning := by
  unfold Obligations.CommandBufferIsStableWhileRunning
  intro s t hI hr h
  obtain ⟨u, hu, rfl⟩ := step_shape h
  obtain ⟨hcmd, hcmdLen, hopr, htxLen⟩ := hu.sameRequest (hI.inProgress_of_seqRun hr)
  exact ⟨hcmd, hcmdLen, hopr, htxLen⟩

/-! SIG, the Completion Signal. -/

/-- HOST never gives the signal. -/
theorem HostShape.sig_eq_false {s u : State} (h : HostShape s u) (hs : s.sig = false) : u.sig = false := by
  cases h
  case rejectBusy => exact hs
  case rejectArgument => exact hs
  case waitBlocks => exact hs
  case stb => exact hs
  case ldb => exact hs
  all_goals rfl

/-- The classifier gives the signal where it ends the transaction (R186, R188), and leaves it in a service (R190). -/
theorem takeInterrupt_sig (s : State) :
    ((takeInterrupt s).sig = true ∧ completed (takeInterrupt s).tstate = true) ∨ (takeInterrupt s).sig = s.sig := by
  obtain ⟨c, -, h⟩ | ⟨-, h⟩ | ⟨-, h⟩ := takeInterrupt_cases s <;> rw [h]
  · exact .inl ⟨rfl, by cases c <;> rfl⟩
  · exact .inl ⟨rfl, rfl⟩
  · exact .inr (service_sig _ s)

/-- IRQ has a step in a transaction only: outside one no interrupt is pending. -/
theorem Inv.inProgress_of_irqLine {s : State} (hI : Inv s) (hi : irqLine s = true) : s.tstate = .inProgress := by
  obtain ⟨-, hidle, -⟩ := hI.mode
  by_contra hne
  obtain ⟨hena, -⟩ := hidle hne
  exact (irqLine_iff s).1 hi (by rw [hena, BitVec.and_zero])

/-- Settles O48: SEQ leaves SIG, HOST never gives it, and the classifier gives it in a terminal step and never takes
it. -/
theorem signalIsGivenOnlyByTerminalSteps : Obligations.SignalIsGivenOnlyByTerminalSteps := by
  unfold Obligations.SignalIsGivenOnlyByTerminalSteps
  intro s t hI h
  rcases step_agents h with ⟨u, he, hu, hshape, rfl⟩ | ⟨hi, rfl⟩ | ⟨u, hshape, rfl⟩
  · refine ⟨fun hs ht => ?_, fun _ _ => ⟨he, u, hu, rfl⟩⟩
    simp [hshape.sig_eq_false hs] at ht
  · rcases takeInterrupt_sig s with ⟨hgiven, hended⟩ | hkept
    · exact ⟨fun _ _ => ⟨hI.inProgress_of_irqLine hi, hended, hi, rfl⟩, fun _ ht => by simp [hgiven] at ht⟩
    · simp +contextual [hkept]
  · simp +contextual [hshape.sameHostSide.sig]

/-! RESP and HPC. -/

@[simp] theorem respValid_respWord (c : Code) (d : Byte) : respValid (respWord c d) = true := by
  simp [respValid, respWord, place]

/-- The DATA field is bits 15:8, which the mask of the zero bits leaves out (R108). -/
theorem place_data_and_zeroBits (d : Byte) : place d 8 &&& 0x7FFF00F8#32 = 0#32 := by
  have hmask : ∀ i < 32, i < 8 ∨ 16 ≤ i ∨ (0x7FFF00F8#32).getLsbD i = false := by decide
  refine BitVec.eq_of_getLsbD_eq fun i hi => ?_
  rw [BitVec.getLsbD_and, BitVec.getLsbD_zero, place]
  rcases hmask i hi with hlow | hhigh | hdata
  · simp [hlow]
  · simp [BitVec.getLsbD_of_ge d (i - 8) (by omega)]
  · rw [hdata, Bool.and_false]

/-- Neither VALID, nor DATA, nor a result code has one of RESP's zero bits (R108). -/
@[simp] theorem respWellFormed_respWord (c : Code) (d : Byte) : respWellFormed (respWord c d) = true := by
  have hvalid : place 1#1 31 &&& 0x7FFF00F8#32 = 0#32 := by decide
  have hcode : place (codeNum c) 0 &&& 0x7FFF00F8#32 = 0#32 := by cases c <;> decide
  simp [respWellFormed, respWord, BitVec.and_or_distrib_right, hvalid, place_data_and_zeroBits, hcode]

/-- RESP and HPC are as they were. -/
structure SameResponse (s u : State) : Prop where
  hpc  : u.hpc = s.hpc
  resp : u.resp = s.resp

/-- HOST answered an operation: HPC advanced by 1, and RESP holds a response word (R47, R51). -/
def Answered (s u : State) : Prop := u.hpc = s.hpc + 1 ∧ ∃ c d, u.resp = respWord c d

/-- HOST answers in every step but those that block: the arm step of a blocking operation and WAIT while busy. -/
theorem HostShape.response {s u : State} (h : HostShape s u) : SameResponse s u ∨ Answered s u := by
  cases h
  case armBlocking => exact .inl ⟨rfl, rfl⟩
  case waitBlocks => exact .inl ⟨rfl, rfl⟩
  all_goals exact .inr ⟨rfl, _, _, rfl⟩

theorem takeInterrupt_sameResponse (s : State) : SameResponse s (takeInterrupt s) := by
  obtain ⟨c, -, h⟩ | ⟨-, h⟩ | ⟨-, h⟩ := takeInterrupt_cases s <;> rw [h] <;> constructor <;> simp

theorem SameHostSide.sameResponse {s u : State} (h : SameHostSide s u) : SameResponse s u := ⟨h.hpc, h.resp⟩

theorem StepShape.response {s u : State} : StepShape s u → SameResponse s u ∨ Answered s u
  | .host h => h.response
  | .irq _ => .inl (takeInterrupt_sameResponse s)
  | .seq h => .inl h.sameHostSide.sameResponse

/-- Settles O57: a step of HOST answers or leaves the response, every other step leaves it. -/
theorem responseIsWrittenWhenHpcAdvances : Obligations.ResponseIsWrittenWhenHpcAdvances := by
  unfold Obligations.ResponseIsWrittenWhenHpcAdvances
  intro s t h
  obtain ⟨u, hu, rfl⟩ := step_shape h
  rw [consumeInput_hpc, consumeInput_resp]
  obtain ⟨hhpc, hresp⟩ | ⟨hhpc, c, d, hresp⟩ := hu.response
  · exact .inl ⟨hhpc, hresp⟩
  · exact .inr ⟨hhpc, by rw [hresp, respValid_respWord], by rw [hresp, respWellFormed_respWord]⟩

end Sys2Proof.Machine
end

section
/-!
BUF and its two indices (spec/20_memory.md R79, R84): what HOST and SEQ leave of them, what the drain of a transaction in
progress can reach, and so who writes BUF.
-/
namespace Sys2Proof.Machine

/-! transmit -/

@[simp] theorem transmit_txFifo (ackCheck : Bool) (b : Byte) (rest : List Byte) (s : State) :
    (transmit ackCheck b rest s).txFifo = rest := by
  simp only [transmit]
  split <;> split <;> simp
@[simp] theorem transmit_rxFifo (ackCheck : Bool) (b : Byte) (rest : List Byte) (s : State) :
    (transmit ackCheck b rest s).rxFifo = s.rxFifo := by
  simp only [transmit]
  split <;> split <;> simp
@[simp] theorem transmit_txIdx (ackCheck : Bool) (b : Byte) (rest : List Byte) (s : State) :
    (transmit ackCheck b rest s).txIdx = s.txIdx := by
  simp only [transmit]
  split <;> split <;> simp
@[simp] theorem transmit_rxIdx (ackCheck : Bool) (b : Byte) (rest : List Byte) (s : State) :
    (transmit ackCheck b rest s).rxIdx = s.rxIdx := by
  simp only [transmit]
  split <;> split <;> simp
@[simp] theorem transmit_buf (ackCheck : Bool) (b : Byte) (rest : List Byte) (s : State) :
    (transmit ackCheck b rest s).buf = s.buf := by
  simp only [transmit]
  split <;> split <;> simp

/-! receive -/

@[simp] theorem receive_txFifo (ackVal : Bool) (b : Byte) (s : State) : (receive ackVal b s).txFifo = s.txFifo := by
  simp only [receive, advance_txFifo]
  split <;> rfl
@[simp] theorem receive_rxFifo (ackVal : Bool) (b : Byte) (s : State) :
    (receive ackVal b s).rxFifo = s.rxFifo ++ [b] := by
  simp only [receive, advance_rxFifo]
  split <;> rfl
@[simp] theorem receive_txIdx (ackVal : Bool) (b : Byte) (s : State) : (receive ackVal b s).txIdx = s.txIdx := by
  simp only [receive, advance_txIdx]
  split <;> rfl
@[simp] theorem receive_rxIdx (ackVal : Bool) (b : Byte) (s : State) : (receive ackVal b s).rxIdx = s.rxIdx := by
  simp only [receive, advance_rxIdx]
  split <;> rfl
@[simp] theorem receive_buf (ackVal : Bool) (b : Byte) (s : State) : (receive ackVal b s).buf = s.buf := by
  simp only [receive, advance_buf]
  split <;> rfl

/-! What HOST and SEQ leave. -/

/-- BUF and its indices are as they were. -/
structure SameBuffer (s u : State) : Prop where
  buf   : u.buf = s.buf
  txIdx : u.txIdx = s.txIdx
  rxIdx : u.rxIdx = s.rxIdx

/-- SEQ has the FIFOs only: BUF and its indices belong to the other agents. -/
theorem SeqShape.sameBuffer {s u : State} (h : SeqShape s u) : SameBuffer s u := by
  cases h <;> constructor <;> simp [seqArbLoss, seqHang]

/-- While a transaction is in progress HOST arms none and stores no byte (R212). -/
theorem HostShape.sameBuffer {s u : State} (h : HostShape s u) (hb : s.tstate = .inProgress) : SameBuffer s u := by
  cases h
  case armBlocking hne _ => exact absurd hb hne
  case armGoingOn hne _ => exact absurd hb hne
  case stb hne => exact absurd hb hne
  all_goals constructor <;> rfl

/-- Both FIFOs are as they were. -/
structure SameFifos (s u : State) : Prop where
  txFifo : u.txFifo = s.txFifo
  rxFifo : u.rxFifo = s.rxFifo

/-- HOST empties and fills the FIFOs in the arm step only. -/
theorem HostShape.sameFifos {s u : State} (h : HostShape s u) (hb : s.tstate = .inProgress) : SameFifos s u := by
  cases h
  case armBlocking hne _ => exact absurd hb hne
  case armGoingOn hne _ => exact absurd hb hne
  all_goals constructor <;> rfl

theorem SeqShape.seqRun {s u : State} (h : SeqShape s u) : s.seqRun = true := by
  cases h <;> assumption

/-! What the drain reaches. -/

/-- No transaction receives more bytes than it asked for: LEN in a read, none in a write. -/
theorem readsDone_le_len {s : State} (hb : BuiltInv s) :
    readsDone s ≤ if s.opr.kind = .read then s.opr.len.toNat else 0 := by
  have hle : readsDone s ≤ (slotsOf s).countP Instr.isRead := (List.take_sublist _ _).countP_le
  rwa [slotsOf, (count_total s.opr.checkAck hb.1).2] at hle

/-- A byte that the drain changes lies where RXFIFO goes. -/
theorem lt_of_bufGet_drain_ne {s : State} {a : Byte} (hfit : s.rxIdx.toNat + s.rxFifo.length ≤ 31)
    (hne : bufGet (drain s).buf a ≠ bufGet s.buf a) : a.toNat < s.rxIdx.toNat + s.rxFifo.length := by
  by_contra hout
  refine hne ((bufGet_drainLoop _ _ _ hfit a).trans (if_neg ?_))
  exact fun hin => hout hin.2

/-- What a transaction received fits below the bound of RXIDX. -/
theorem Inv.received_le {s : State} (hI : Inv s) (hb : s.tstate = .inProgress) :
    s.rxIdx.toNat + s.rxFifo.length ≤ 26 := by
  obtain ⟨hbuilt, ⟨-, hread, -⟩, -, -⟩ := hI.transaction hb
  exact hread.trans_le (readsDone_le hbuilt)

/-- In a transaction the drain changes the destination of a read only. -/
theorem Inv.drain_changes {s : State} (hI : Inv s) (hb : s.tstate = .inProgress) {a : Byte}
    (hne : bufGet (drain s).buf a ≠ bufGet s.buf a) : s.opr.kind = .read ∧ a.toNat < s.opr.len.toNat := by
  have hlt := lt_of_bufGet_drain_ne ((hI.received_le hb).trans (by decide)) hne
  obtain ⟨hbuilt, ⟨-, hread, -⟩, -, -⟩ := hI.transaction hb
  have hle := readsDone_le_len hbuilt
  split at hle
  case isTrue hk => exact ⟨hk, by omega⟩
  case isFalse => omega

/-- The drain of a service, where RXF is in the snapshot p, changes no other byte. -/
theorem Inv.afterDrain_changes {s : State} (hI : Inv s) (hb : s.tstate = .inProgress) {p : BitVec 6} {a : Byte}
    (hne : bufGet (afterDrain p s).buf a ≠ bufGet s.buf a) : s.opr.kind = .read ∧ a.toNat < s.opr.len.toNat := by
  unfold afterDrain at hne
  split at hne
  · exact hI.drain_changes hb hne
  · exact absurd rfl hne

/-- An abort takes values away from the destination of a read only (U1). -/
theorem bufAfterAbort_changes {c : AbortCause} {s : State} {a : Byte}
    (hne : bufGet (bufAfterAbort c s) a ≠ bufGet s.buf a) : s.opr.kind = .read ∧ a.toNat < s.opr.len.toNat := by
  have hforget : bufGet (bufForget s.buf s.opr.len.toNat) a ≠ bufGet s.buf a → a.toNat < s.opr.len.toNat := by
    rw [bufGet_forget]
    split <;> simp_all
  cases hk : s.opr.kind <;> cases c <;> simp only [bufAfterAbort, hk, ne_eq, not_true_eq_false] at hne
  all_goals exact ⟨rfl, hforget hne⟩

theorem takeInterrupt_changes {s : State} (hI : Inv s) (hb : s.tstate = .inProgress) {a : Byte}
    (hne : bufGet (takeInterrupt s).buf a ≠ bufGet s.buf a) : s.opr.kind = .read ∧ a.toNat < s.opr.len.toNat := by
  obtain ⟨c, -, h⟩ | ⟨-, h⟩ | ⟨-, h⟩ := takeInterrupt_cases s <;> rw [h] at hne
  · exact bufAfterAbort_changes hne
  · exact hI.drain_changes hb hne
  · rw [service_buf] at hne
    exact hI.afterDrain_changes hb hne

/-- In a transaction only the classifier of a read writes BUF, and only its destination. -/
theorem StepShape.changes {s u : State} (hI : Inv s) (hb : s.tstate = .inProgress) {a : Byte} (h : StepShape s u)
    (hne : bufGet u.buf a ≠ bufGet s.buf a) :
    irqLine s = true ∧ u = takeInterrupt s ∧ s.opr.kind = .read ∧ a.toNat < s.opr.len.toNat := by
  cases h with
  | host h => exact absurd (by rw [(h.sameBuffer hb).buf]) hne
  | irq hi => exact ⟨hi, rfl, takeInterrupt_changes hI hb hne⟩
  | seq h => exact absurd (by rw [h.sameBuffer.buf]) hne

/-- Settles O50: HOST and SEQ leave BUF, and the classifier reaches no byte but the destination of a read. -/
theorem bufferBelongsToTheTransaction : Obligations.BufferBelongsToTheTransaction := by
  unfold Obligations.BufferBelongsToTheTransaction
  intro s t hI hb hstep a hne
  obtain ⟨u, hu, rfl⟩ := step_shape hstep
  obtain ⟨hi, rfl, hkind, hlt⟩ := hu.changes hI hb hne
  exact ⟨hi, rfl, hkind, hlt⟩

end Sys2Proof.Machine
end

section
/-!
The TX stream (spec/20_memory.md R84, spec/40_command_builder.md R136): every step moves TXFIFO along the stream, by pops at its
head and pushes from TXIDX on, and no step of a transaction changes the stream's bytes. So TXFIFO stays a piece of it.
-/
namespace Sys2Proof.Machine

/-- Bytes i to i + n - 1 of the TX stream. -/
def streamBytes (s : State) (i n : Nat) : List Byte := (List.range' i n).map fun j => txByte s (BitVec.ofNat 5 j)

@[simp] theorem streamBytes_zero (s : State) (i : Nat) : streamBytes s i 0 = [] := rfl

@[simp] theorem length_streamBytes (s : State) (i n : Nat) : (streamBytes s i n).length = n := by
  simp [streamBytes]

theorem streamBytes_add (s : State) (i m n : Nat) :
    streamBytes s i (m + n) = streamBytes s i m ++ streamBytes s (i + m) n := by
  rw [streamBytes, ← List.range'_append_1, List.map_append, streamBytes, streamBytes]

theorem streamBytes_congr {s u : State} {i n : Nat}
    (h : ∀ j < i + n, txByte u (BitVec.ofNat 5 j) = txByte s (BitVec.ofNat 5 j)) :
    streamBytes u i n = streamBytes s i n :=
  List.map_congr_left fun j hj => h j (List.mem_range'_1.1 hj).2

/-- TXFIFO is in order exactly when it is the piece of the stream that ends at TXIDX. -/
theorem txOrdered_iff (s : State) :
    TxOrdered s ↔ s.txFifo = streamBytes s (s.txIdx.toNat - s.txFifo.length) s.txFifo.length := by
  rw [List.ext_getElem?_iff]
  refine forall_congr' fun j => ?_
  by_cases hj : j < s.txFifo.length
  · simp [streamBytes, hj]
  · simp [streamBytes, hj]

/-! What the feed pushes. -/

theorem feedResult_fst (s : State) :
    (feedResult s).1 = s.txFifo ++ streamBytes s s.txIdx.toNat (feedCount s) := by
  simp [feedResult_eq, streamBytes, List.range'_eq_map_range, Function.comp_def]

/-- The feed stops at TXLEN. -/
theorem add_feedCount_le {s : State} (hle : s.txIdx ≤ s.txLen) : s.txIdx.toNat + feedCount s ≤ s.txLen.toNat := by
  have : s.txIdx.toNat ≤ s.txLen.toNat := hle
  unfold feedCount
  omega

theorem feedResult_snd_toNat {s : State} (hle : s.txIdx ≤ s.txLen) :
    (feedResult s).2.toNat = s.txIdx.toNat + feedCount s := by
  have := add_feedCount_le hle
  rw [feedResult_eq, BitVec.toNat_ofNat]
  omega

/-! What the bytes of the stream rest on. -/

/-- The TX stream of u is read from the same operands and, in a write, from the same payload as that of s. -/
structure SameStream (s u : State) : Prop where
  opr     : u.opr = s.opr
  params  : u.params = s.params
  payload : s.opr.kind = .write → ∀ a, bufGet u.buf a = bufGet s.buf a

theorem SameStream.refl (s : State) : SameStream s s := ⟨rfl, rfl, fun _ _ => rfl⟩

/-- Neither the operands nor the payload are the input's. -/
theorem SameStream.consumeInput {s u : State} (h : SameStream s u) : SameStream s (consumeInput u) :=
  ⟨h.opr, h.params, h.payload⟩

/-- The payload of a write is written in both or in neither. -/
theorem SameStream.payloadWritten {s u : State} (h : SameStream s u) (hp : PayloadWritten u) : PayloadWritten s := by
  intro hk i hi
  rw [← h.payload hk]
  exact hp (by rw [h.opr]; exact hk) i (by rw [h.opr]; exact hi)

/-- A written byte reads the same at every step; only an unwritten one is drawn anew. -/
theorem readBuf_congr {s u : State} {a : Byte} (h : bufGet u.buf a = bufGet s.buf a)
    (hw : (bufGet s.buf a).isSome = true) : readBuf u a = readBuf s a := by
  obtain ⟨b, hb⟩ := Option.isSome_iff_exists.1 hw
  simp [readBuf, h, hb]

/-- The index of the payload byte that stream byte j of a write is. -/
theorem bufIndex_sub_two {j : Nat} (h2 : 2 ≤ j) (hj : j < 32) :
    bufIndex (BitVec.ofNat 5 j - 2#5) = BitVec.ofNat 8 (j - 2) := by
  apply BitVec.eq_of_toNat_eq
  rw [bufIndex_toNat, BitVec.toNat_sub, BitVec.toNat_ofNat, BitVec.toNat_ofNat, BitVec.toNat_ofNat]
  omega

/-- Every byte of a stream whose payload is written depends on the operands and the payload only. -/
theorem SameStream.txByte_eq {s u : State} (h : SameStream s u) (hv : validLen s.opr.kind s.opr.len = true)
    (hp : PayloadWritten s) {j : Nat} (hj : j < buildTxLen s.opr.kind s.opr.len.toNat) :
    txByte u (BitVec.ofNat 5 j) = txByte s (BitVec.ofNat 5 j) := by
  have hlt : j < 32 := by have := buildTxLen_bounds hv; omega
  obtain ⟨hopr, -, hpay⟩ := h
  simp only [txByte, txByteWrite, txByteRead, hopr]
  cases hk : s.opr.kind <;> rw [hk] at hj
  case write =>
    have hj' : j < s.opr.len.toNat + 2 := hj
    dsimp only
    split
    · rfl
    split
    · rfl
    · rename_i h0 h1
      have h2 : 2 ≤ j := by
        by_contra hlow
        interval_cases j <;> contradiction
      rw [bufIndex_sub_two h2 hlt]
      exact readBuf_congr (hpay hk _) (hp hk _ (by omega))
  case read =>
    have hj' : j < 3 := hj
    interval_cases j <;> rfl

/-! A state whose TXFIFO can be in order. -/

/-- The request is valid, its payload written, and TXIDX counts the bytes pushed, up to TXLEN. -/
structure StreamReady (s : State) : Prop where
  valid   : validLen s.opr.kind s.opr.len = true
  payload : PayloadWritten s
  txLen   : s.txLen.toNat = buildTxLen s.opr.kind s.opr.len.toNat
  pushed  : s.txFifo.length ≤ s.txIdx.toNat
  bound   : s.txIdx ≤ s.txLen

theorem Inv.streamReady {s : State} (hI : Inv s) (hb : s.tstate = .inProgress) (hp : PayloadWritten s) :
    StreamReady s := by
  obtain ⟨hbuilt, ⟨hpushed, -, -⟩, -, -⟩ := hI.transaction hb
  obtain ⟨-, -, -, -, -, hbound, -⟩ := hI.bounds
  exact ⟨hbuilt.1, hp, txLen_toNat hbuilt, by omega, hbound⟩

/-- The stream of a ready state is the same, byte by byte, wherever it rests on the same operands and payload. -/
theorem SameStream.streamBytes_eq {s u : State} (h : SameStream s u) (hr : StreamReady s) {i n : Nat}
    (hn : i + n ≤ s.txLen.toNat) : streamBytes u i n = streamBytes s i n :=
  streamBytes_congr fun _ hj => h.txByte_eq hr.valid hr.payload (hr.txLen ▸ hj.trans_le hn)

/-! TXFIFO moves along the stream. -/

/-- Bytes left TXFIFO at its head, and n bytes were pushed from the stream, from TXIDX on. -/
structure TxMoves (s u : State) (n : Nat) : Prop where
  txFifo : ∃ popped q, s.txFifo = popped ++ q ∧ u.txFifo = q ++ streamBytes s s.txIdx.toNat n
  txIdx  : u.txIdx.toNat = s.txIdx.toNat + n
  bound  : s.txIdx.toNat + n ≤ s.txLen.toNat

/-- A step that pops the bytes of the list `popped`, or none, and pushes none. -/
theorem TxMoves.popped {s u : State} (popped : List Byte) (hq : s.txFifo = popped ++ u.txFifo) (hi : u.txIdx = s.txIdx)
    (hle : s.txIdx ≤ s.txLen) : TxMoves s u 0 :=
  ⟨⟨popped, _, hq, by simp⟩, by rw [hi, Nat.add_zero], hle⟩

theorem TxMoves.consumeInput {s u : State} {n : Nat} (h : TxMoves s u n) : TxMoves s (consumeInput u) n :=
  ⟨h.txFifo, h.txIdx, h.bound⟩

/-- A piece of the stream that moves along the stream is a piece of it. -/
theorem TxMoves.txOrdered {s u : State} {n : Nat} (hm : TxMoves s u n) (hs : SameStream s u) (hr : StreamReady s)
    (ho : TxOrdered s) : TxOrdered u := by
  obtain ⟨⟨popped, q, hsq, huq⟩, hidx, hbound⟩ := hm
  have hpushed := hr.pushed
  rw [txOrdered_iff, hsq, List.length_append, streamBytes_add] at ho
  rw [hsq, List.length_append] at hpushed
  obtain ⟨-, hq⟩ := List.append_inj ho (by simp)
  have hlen : u.txFifo.length = q.length + n := by rw [huq, List.length_append, length_streamBytes]
  rw [txOrdered_iff, hlen, hs.streamBytes_eq hr (by omega), streamBytes_add, huq]
  have hstart : s.txIdx.toNat - (popped.length + q.length) + popped.length = u.txIdx.toNat - (q.length + n) := by omega
  have hnext : u.txIdx.toNat - (q.length + n) + q.length = s.txIdx.toNat := by omega
  rw [hnext, ← hstart, ← hq]

/-! What each agent's step does to the stream and to TXFIFO. -/

theorem StepShape.sameStream {s u : State} (hI : Inv s) (hb : s.tstate = .inProgress) (h : StepShape s u) :
    SameStream s u where
  opr := (h.sameRequest hb).opr
  params := h.sameRun.params
  payload := fun hw a => by
    by_contra hne
    obtain ⟨-, -, hread, -⟩ := h.changes hI hb hne
    exact nomatch hw.symm.trans hread

/-- The drain of a service is not in the way of the feed after it: a write drains nothing. -/
theorem Inv.afterDrain_sameStream {s : State} (hI : Inv s) (hb : s.tstate = .inProgress) (p : BitVec 6) :
    SameStream s (afterDrain p s) where
  opr := by unfold afterDrain; split <;> rfl
  params := by unfold afterDrain; split <;> rfl
  payload := fun hw a => by
    by_contra hne
    obtain ⟨hread, -⟩ := hI.afterDrain_changes hb hne
    exact nomatch hw.symm.trans hread

theorem afterDrain_txSide (p : BitVec 6) (s : State) :
    (afterDrain p s).txFifo = s.txFifo ∧ (afterDrain p s).txIdx = s.txIdx ∧ (afterDrain p s).txLen = s.txLen := by
  unfold afterDrain
  split <;> exact ⟨rfl, rfl, rfl⟩

theorem takeInterrupt_txMoves {s : State} (hI : Inv s) (hb : s.tstate = .inProgress) (hr : StreamReady s) :
    ∃ n, TxMoves s (takeInterrupt s) n := by
  obtain ⟨c, -, h⟩ | ⟨-, h⟩ | ⟨-, h⟩ := takeInterrupt_cases s <;> rw [h]
  · exact ⟨0, .popped s.txFifo (by simp) (by simp) hr.bound⟩
  · exact ⟨0, .popped [] rfl rfl hr.bound⟩
  · generalize armedPending s = p
    by_cases htx : p.getLsbD 0 = true
    · have hs := hI.afterDrain_sameStream hb p
      obtain ⟨hfifo, hidx, hlen⟩ := afterDrain_txSide p s
      have hle : (afterDrain p s).txIdx ≤ (afterDrain p s).txLen := by rw [hidx, hlen]; exact hr.bound
      have hbound := add_feedCount_le hle
      rw [hidx, hlen] at hbound
      refine ⟨feedCount (afterDrain p s), ⟨[], s.txFifo, rfl, ?_⟩, ?_, hbound⟩
      · rw [service_txFifo, if_pos htx, feedResult_fst, hfifo, hidx, hs.streamBytes_eq hr hbound]
      · rw [service_txIdx, if_pos htx, feedResult_snd_toNat hle, hidx]
    · refine ⟨0, .popped [] ?_ ?_ hr.bound⟩
      · rw [service_txFifo, if_neg htx, List.nil_append]
      · rw [service_txIdx, if_neg htx]

theorem SeqShape.txMoves {s u : State} (h : SeqShape s u) (hle : s.txIdx ≤ s.txLen) : TxMoves s u 0 := by
  have hi := h.sameBuffer.txIdx
  cases h
  case write hq => exact .popped [_] (by simpa using hq) hi hle
  all_goals exact .popped [] (by simp [seqArbLoss, seqHang]) hi hle

theorem StepShape.txMoves {s u : State} (hI : Inv s) (hb : s.tstate = .inProgress) (hr : StreamReady s) :
    StepShape s u → ∃ n, TxMoves s u n
  | .host h => ⟨0, .popped [] (h.sameFifos hb).txFifo.symm (h.sameBuffer hb).txIdx hr.bound⟩
  | .irq _ => takeInterrupt_txMoves hI hb hr
  | .seq h => ⟨0, h.txMoves hr.bound⟩

/-! The arm step starts the stream. -/

/-- TXFIFO holds the stream up to TXIDX, none of it popped yet, and the request of the transaction is valid. -/
structure StreamStart (u : State) : Prop where
  valid  : validLen u.opr.kind u.opr.len = true
  txLen  : u.txLen.toNat = buildTxLen u.opr.kind u.opr.len.toNat
  bound  : u.txIdx ≤ u.txLen
  txFifo : u.txFifo = streamBytes u 0 u.txIdx.toNat

theorem StreamStart.txOrdered {u : State} (h : StreamStart u) : TxOrdered u := by
  have hlen : u.txFifo.length = u.txIdx.toNat := by rw [h.txFifo, length_streamBytes]
  rw [txOrdered_iff, hlen, Nat.sub_self]
  exact h.txFifo

theorem StreamStart.ready {u : State} (h : StreamStart u) (hp : PayloadWritten u) : StreamReady u where
  valid := h.valid
  payload := hp
  txLen := h.txLen
  pushed := by rw [h.txFifo, length_streamBytes]
  bound := h.bound

/-- The state the prefill of the arm step starts from (R214). -/
def beforePrefill (k : Kind) (dev : BitVec 7) (reg len : Byte) (ck : Bool) (s : State) : State :=
  { s with
    opr := ⟨k, dev, reg, len, ck⟩
    cmd := writeSlots s.cmd 0 (buildWords k len.toNat ck)
    cmdLen := BitVec.ofNat 6 (buildSize k len.toNat)
    cmdPtr := 0#6
    txLen := BitVec.ofNat 5 (buildTxLen k len.toNat)
    txIdx := 0#5
    rxIdx := 0#5
    txFifo := []
    rxFifo := [] }

theorem arm_txFifo (k : Kind) (dev : BitVec 7) (reg len : Byte) (ck : Bool) (s : State) :
    (arm k dev reg len ck s).txFifo = (feedResult (beforePrefill k dev reg len ck s)).1 := rfl

theorem arm_txIdx (k : Kind) (dev : BitVec 7) (reg len : Byte) (ck : Bool) (s : State) :
    (arm k dev reg len ck s).txIdx = (feedResult (beforePrefill k dev reg len ck s)).2 := rfl

theorem arm_streamStart {k : Kind} {dev : BitVec 7} {reg len : Byte} {ck : Bool} (s : State)
    (hv : validLen k len = true) : StreamStart (arm k dev reg len ck s) := by
  have hle : (beforePrefill k dev reg len ck s).txIdx ≤ (beforePrefill k dev reg len ck s).txLen := Nat.zero_le _
  have hidx : (arm k dev reg len ck s).txIdx.toNat = feedCount (beforePrefill k dev reg len ck s) := by
    rw [arm_txIdx, feedResult_snd_toNat hle]
    exact Nat.zero_add _
  constructor
  case valid => exact hv
  case txLen =>
    have := buildTxLen_bounds hv
    exact (BitVec.toNat_ofNat _ _).trans (Nat.mod_eq_of_lt (by omega))
  case bound =>
    have hcount : 0 + _ ≤ (arm k dev reg len ck s).txLen.toNat := add_feedCount_le hle
    rw [BitVec.le_def, hidx]
    omega
  case txFifo =>
    rw [hidx, arm_txFifo, feedResult_fst]
    rfl

/-- HOST starts a transaction in the arm step only. -/
theorem HostShape.streamStart {s u : State} (h : HostShape s u) (hb : s.tstate ≠ .inProgress)
    (hu : u.tstate = .inProgress) : StreamStart u := by
  cases h
  case armBlocking hv =>
    obtain ⟨hvalid, htxLen, hbound, htxFifo⟩ := arm_streamStart s hv
    exact ⟨hvalid, htxLen, hbound, htxFifo⟩
  case armGoingOn hv =>
    obtain ⟨hvalid, htxLen, hbound, htxFifo⟩ := arm_streamStart s hv
    exact ⟨hvalid, htxLen, hbound, htxFifo⟩
  all_goals exact absurd hu hb

/-- Every other agent has a step in a transaction only, so it starts none. -/
theorem StepShape.streamStart {s u : State} (hI : Inv s) (hb : s.tstate ≠ .inProgress) (hu : u.tstate = .inProgress) :
    StepShape s u → StreamStart u
  | .host h => h.streamStart hb hu
  | .irq hi => absurd (hI.inProgress_of_irqLine hi) hb
  | .seq h => absurd (hI.inProgress_of_seqRun h.seqRun) hb

/-- Settles O55: a step in a transaction moves an ordered TXFIFO along the stream, and the step that starts one leaves it
at the stream's first bytes. -/
theorem transmitFifoHoldsTheStream : Obligations.TransmitFifoHoldsTheStream := by
  unfold Obligations.TransmitFifoHoldsTheStream
  intro s t hI hordered hstep ht hp
  obtain ⟨u, hu, rfl⟩ := step_shape hstep
  by_cases hb : s.tstate = .inProgress
  · have hs : SameStream s (consumeInput u) := (hu.sameStream hI hb).consumeInput
    have hready := hI.streamReady hb (hs.payloadWritten hp)
    obtain ⟨n, hm⟩ := hu.txMoves hI hb hready
    exact hm.consumeInput.txOrdered hs hready (hordered hb (hs.payloadWritten hp))
  · have hstart : StreamStart u := hu.streamStart hI hb ht
    have hs : SameStream u (consumeInput u) := (SameStream.refl u).consumeInput
    have hm : TxMoves u u 0 := .popped [] rfl rfl hstart.bound
    exact hm.consumeInput.txOrdered hs (hstart.ready (hs.payloadWritten hp)) hstart.txOrdered

/-! The WRITE at CMDPTR. -/

/-- Where SEQ runs no missing acknowledgment is pending, so TXIDX is ahead of the WRITE slots completed by what TXFIFO
holds. -/
theorem Inv.txIdx_eq {s : State} (hI : Inv s) (hr : s.seqRun = true) :
    s.txIdx.toNat = s.txFifo.length + writesDone s := by
  obtain ⟨-, ⟨hpushed, -⟩, ⟨hrunning, -⟩, -⟩ := hI.transaction (hI.inProgress_of_seqRun hr)
  have hmask : ∀ p : BitVec 6, p &&& terminalEvents = 0#6 → ¬ p &&& eventMask .ackErr ≠ 0#6 := by decide
  rwa [if_neg (hmask _ (hrunning hr).1), Nat.add_zero] at hpushed

/-- Settles O56: the head of an ordered TXFIFO is stream byte TXIDX - |TXFIFO|, the count of WRITE slots completed. -/
theorem writeSlotSendsItsStreamByte : Obligations.WriteSlotSendsItsStreamByte := by
  unfold Obligations.WriteSlotSendsItsStreamByte
  intro s t k hI hr hordered _ hne hexec
  obtain ⟨b, rest, hq⟩ := List.exists_cons_of_ne_nil hne
  have hidx := hI.txIdx_eq hr
  have hhead : b = txByte s (BitVec.ofNat 5 (writesDone s)) := by
    have hfirst := hordered 0 (List.length_pos_of_ne_nil hne)
    rwa [hidx, Nat.add_sub_cancel_left, Nat.add_zero, hq, List.getElem?_cons_zero, Option.some.injEq] at hfirst
  simp only [exec, execWrite, hq, Host.Outcome.next.injEq] at hexec
  rw [← hexec, transmit_trace, hhead]

end Sys2Proof.Machine
end

section
/-!
What a read received (spec/20_memory.md R84): the stream of received bytes, those in BUF and then those in RXFIFO, grows at its
end by what a step receives, and the drain only moves bytes within it.
-/
namespace Sys2Proof.Machine

/-- The stream goes on at its end with the bytes TRACE received. -/
def Receives (s u : State) : Prop :=
  ∃ d, u.trace = s.trace ++ d ∧ readStream u = readStream s ++ (receivedBytes d).map some

/-- A step that emits nothing and leaves the stream. -/
theorem Receives.of_eq {s u : State} (ht : u.trace = s.trace) (hs : readStream u = readStream s) : Receives s u :=
  ⟨[], by rw [ht, List.append_nil], by rw [hs]; exact (List.append_nil _).symm⟩

theorem readStream_congr {s u : State} (hbuf : u.buf = s.buf) (hidx : u.rxIdx = s.rxIdx) (hq : u.rxFifo = s.rxFifo) :
    readStream u = readStream s := by
  rw [readStream, hbuf, hidx, hq, readStream]

/-- Every step of SEQ appends to RXFIFO what its event received: the byte of a READ, none otherwise. -/
theorem SeqShape.rxFifo_eq_append {s u : State} (h : SeqShape s u) :
    ∃ e, u.trace = s.trace ++ [e] ∧ u.rxFifo = s.rxFifo ++ receivedBytes [e] := by
  cases h
  case read => exact ⟨_, receive_trace .., receive_rxFifo ..⟩
  case write => exact ⟨_, transmit_trace .., by simp [receivedBytes]⟩
  case start =>
    refine ⟨_, advance_trace _, ?_⟩
    cases s.busOwn <;> simp [receivedBytes]
  case stop => exact ⟨_, advance_trace _, by simp [receivedBytes]⟩
  case arbLoss => exact ⟨_, rfl, by simp [seqArbLoss, receivedBytes]⟩
  case hang => exact ⟨_, rfl, by simp [seqHang, receivedBytes]⟩

/-! The drain. -/

theorem bufGet_ofNat_drainLoop {q : List Byte} {i : BitVec 5} {m : Memory} (h : i.toNat + q.length ≤ 31) {j : Nat}
    (hj : j < 32) : bufGet (drainLoop q i m).1 (BitVec.ofNat 8 j) =
      if i.toNat ≤ j ∧ j < i.toNat + q.length then q[j - i.toNat]? else bufGet m (BitVec.ofNat 8 j) := by
  have hto : (BitVec.ofNat 8 j).toNat = j := by rw [BitVec.toNat_ofNat]; omega
  rw [bufGet_drainLoop q i m h, hto]

/-- The drain puts the queue behind the bytes that BUF has already taken. -/
theorem bufTaken_drainLoop {q : List Byte} {i : BitVec 5} (m : Memory) (h : i.toNat + q.length ≤ 31) :
    bufTaken (drainLoop q i m).1 (i.toNat + q.length) = bufTaken m i.toNat ++ q.map some := by
  rw [bufTaken, List.range_add, List.map_append]
  congr 1
  · refine List.map_congr_left fun j hj => ?_
    have hlt : j < i.toNat := List.mem_range.1 hj
    rw [bufGet_ofNat_drainLoop h (by omega), if_neg (by omega)]
  · refine List.ext_getElem (by simp) fun j hj _ => ?_
    have hlt : j < q.length := by simpa using hj
    simp only [List.getElem_map, List.getElem_range]
    rw [bufGet_ofNat_drainLoop h (by omega), if_pos (by omega), Nat.add_sub_cancel_left, List.getElem?_eq_getElem hlt]

theorem drain_rxIdx_toNat {s : State} (h : s.rxIdx.toNat + s.rxFifo.length ≤ 31) :
    (drain s).rxIdx.toNat = s.rxIdx.toNat + s.rxFifo.length := by
  have hidx : (drain s).rxIdx = s.rxIdx + BitVec.ofNat 5 s.rxFifo.length := drainLoop_index ..
  rw [hidx, BitVec.toNat_add, BitVec.toNat_ofNat]
  omega

/-- The drain moves bytes from RXFIFO to BUF and neither adds to the stream nor reorders it. -/
theorem readStream_drain {s : State} (h : s.rxIdx.toNat + s.rxFifo.length ≤ 31) : readStream (drain s) = readStream s := by
  rw [readStream, drain_rxIdx_toNat h]
  exact (List.append_nil _).trans (bufTaken_drainLoop s.buf h)

theorem readStream_afterDrain (p : BitVec 6) {s : State} (h : s.rxIdx.toNat + s.rxFifo.length ≤ 31) :
    readStream (afterDrain p s) = readStream s := by
  unfold afterDrain
  split
  · exact readStream_drain h
  · rfl

/-! Each agent's step. -/

/-- An abort ends a transaction, and not with Ok. -/
theorem abortState_ended (c : AbortCause) : ¬ (abortState c = .inProgress ∨ abortState c = .completedOk) := by
  cases c <;> decide

theorem takeInterrupt_receives {s : State} (hfit : s.rxIdx.toNat + s.rxFifo.length ≤ 31)
    (hu : (takeInterrupt s).tstate = .inProgress ∨ (takeInterrupt s).tstate = .completedOk) :
    Receives s (takeInterrupt s) := by
  obtain ⟨c, -, h⟩ | ⟨-, h⟩ | ⟨-, h⟩ := takeInterrupt_cases s <;> rw [h] at hu ⊢
  · exact absurd hu (abortState_ended c)
  · exact .of_eq (complete_trace s) (readStream_drain hfit)
  · refine .of_eq (service_trace _ s) ?_
    rw [← readStream_afterDrain (armedPending s) hfit]
    exact readStream_congr (service_buf ..) (service_rxIdx ..) (service_rxFifo ..)

theorem StepShape.receives {s u : State} (hI : Inv s) (hb : s.tstate = .inProgress)
    (hu : u.tstate = .inProgress ∨ u.tstate = .completedOk) (h : StepShape s u) : Receives s u := by
  cases h with
  | host h =>
    obtain ⟨hbuf, -, hidx⟩ := h.sameBuffer hb
    exact .of_eq h.trace (readStream_congr hbuf hidx (h.sameFifos hb).rxFifo)
  | irq => exact takeInterrupt_receives ((hI.received_le hb).trans (by decide)) hu
  | seq h =>
    obtain ⟨e, htrace, hfifo⟩ := h.rxFifo_eq_append
    obtain ⟨hbuf, -, hidx⟩ := h.sameBuffer
    refine ⟨[e], htrace, ?_⟩
    rw [readStream, hbuf, hidx, hfifo, List.map_append, ← List.append_assoc, readStream]

/-- Settles O53: SEQ appends to the stream what it receives; HOST, and the classifier where it does not abort, leave the
stream and TRACE. -/
theorem receivedBytesKeepTheirOrder : Obligations.ReceivedBytesKeepTheirOrder := by
  unfold Obligations.ReceivedBytesKeepTheirOrder
  intro s t hI hb _ hstep ht
  obtain ⟨u, hu, rfl⟩ := step_shape hstep
  have hreceives : Receives s u := hu.receives hI hb ht
  exact hreceives

end Sys2Proof.Machine
end

section
/-!
The fields of a word (spec/00_scope.md R11): what reading a field gives of a field placed at the same bits, at other bits,
and of a word put together from fields; and the bits a field covers.
-/
namespace Sys2Proof

theorem ofBool_getLsbD (w : Word) (k : Nat) : BitVec.ofBool (w.getLsbD k) = field w k 1 := by
  refine BitVec.eq_of_getLsbD_eq fun j hj => ?_
  obtain rfl : j = 0 := by omega
  simp [field]

theorem getLsbD_eq_field (w : Word) (k : Nat) : w.getLsbD k = (field w k 1).getLsbD 0 := by simp [field]

theorem getLsbD_place {n : Nat} (f : BitVec n) (lo k : Nat) :
    (place f lo).getLsbD k = (decide (k < 32) && decide (lo ≤ k) && f.getLsbD (k - lo)) := by
  by_cases hk : k < 32
  · by_cases hlo : k < lo
    · simp [place, hk, hlo]
    · simp [place, hk, hlo]; omega
  · simp [place, hk]

theorem field_or (v w : Word) (lo n : Nat) : field (v ||| w) lo n = field v lo n ||| field w lo n :=
  BitVec.extractLsb'_or ..

theorem field_place_same {n : Nat} (f : BitVec n) {lo : Nat} (h : lo + n ≤ 32) : field (place f lo) lo n = f := by
  refine BitVec.eq_of_getLsbD_eq fun j hj => ?_
  have hbit : lo + j < 32 := by omega
  rw [field, BitVec.getLsbD_extractLsb', getLsbD_place]
  simp [hj, hbit]

theorem field_place_apart {m : Nat} (f : BitVec m) {lo lo' n : Nat} (h : lo' + n ≤ lo ∨ lo + m ≤ lo') :
    field (place f lo) lo' n = 0#n := by
  refine BitVec.eq_of_getLsbD_eq fun j hj => ?_
  rw [field, BitVec.getLsbD_extractLsb', getLsbD_place, BitVec.getLsbD_zero]
  rcases h with habove | hbelow
  · have : ¬ lo ≤ lo' + j := by omega
    simp [this]
  · simp [BitVec.getLsbD_of_ge f (lo' + j - lo) (by omega)]

/-- Taking a field out of a word and putting it back at its place leaves the word's bits there and clears the others. -/
theorem place_field (w : Word) (lo n : Nat) : place (field w lo n) lo = w &&& place (BitVec.allOnes n) lo := by
  refine BitVec.eq_of_getLsbD_eq fun k hk => ?_
  rw [BitVec.getLsbD_and, getLsbD_place, getLsbD_place, field, BitVec.getLsbD_extractLsb', BitVec.getLsbD_allOnes]
  by_cases hlo : lo ≤ k
  · rw [Nat.add_sub_cancel' hlo, Bool.and_comm (w.getLsbD k), Bool.and_assoc, Bool.and_assoc, Bool.and_assoc]
  · simp [hlo]

end Sys2Proof
end

section
/-!
The decoders against the rows of the opcode table (spec/30_encoding.md R101, R102, R104, R105): a word selects at most one
row, a word that selects an instruction's row is read as that instruction with the word's own operands, and nothing else is
read.
-/
namespace Sys2Proof

theorem Row.selects_iff (r : Row) (w : Word) : r.selects w = true ↔ w &&& r.mask = r.pattern := by
  rw [Row.selects, beq_iff_eq]

/-- Two rows that select one word agree on the bits both of them fix. -/
theorem Row.agree_of_selects {r r' : Row} {w : Word} (h : r.selects w = true) (h' : r'.selects w = true) :
    r.pattern &&& r'.mask = r'.pattern &&& r.mask := by
  rw [Row.selects_iff] at h h'
  rw [← h, ← h', BitVec.and_assoc, BitVec.and_assoc, BitVec.and_comm r.mask]

/-- Any two different rows of the opcode table differ in a bit that both of them fix. -/
theorem rows_disjoint {w : Word} {r r' : Row} (hr : r ∈ hcmdRows ++ slotRows) (hr' : r' ∈ hcmdRows ++ slotRows)
    (h : r.selects w = true) (h' : r'.selects w = true) : r = r' := by
  have hdiffer : ∀ r ∈ hcmdRows ++ slotRows, ∀ r' ∈ hcmdRows ++ slotRows,
      r.pattern &&& r'.mask = r'.pattern &&& r.mask → r = r' := by decide
  exact hdiffer r hr r' hr' (Row.agree_of_selects h h')

/-- Once one row selects a word, every other row is known not to. -/
theorem selects_eq_decide {w : Word} {r : Row} (hr : r ∈ hcmdRows ++ slotRows) (h : r.selects w = true) :
    ∀ r' ∈ hcmdRows ++ slotRows, r'.selects w = decide (r' = r) := by
  intro r' hr'
  rw [Bool.eq_iff_iff, decide_eq_true_iff]
  exact ⟨fun h' => rows_disjoint hr' hr h' h, fun heq => heq ▸ h⟩

theorem row_mem_hcmdRows {i : Instr} (hop : i.isHostOp = true) : i.row ∈ hcmdRows := by
  cases i <;> simp [Instr.isHostOp, Instr.row, hcmdRows] at hop ⊢

theorem row_mem_slotRows {i : Instr} (hop : i.isHostOp = false) : i.row ∈ slotRows := by
  cases i <;> simp [Instr.isHostOp, Instr.row, slotRows] at hop ⊢

theorem row_mem (i : Instr) : i.row ∈ hcmdRows ++ slotRows := by
  cases hop : i.isHostOp
  · exact List.mem_append_right _ (row_mem_slotRows hop)
  · exact List.mem_append_left _ (row_mem_hcmdRows hop)

/-- The instruction of the same row whose operands are the fields of the word w (R101, R104). -/
def Instr.withOperandsOf (w : Word) : Instr → Instr
  | .wrreg _ _ _ _ _ => .wrreg (w.getLsbD 27) (w.getLsbD 26) (field w 16 7) (field w 8 8) (field w 0 8)
  | .rdreg _ _ _ _ => .rdreg (w.getLsbD 26) (field w 16 7) (field w 8 8) (field w 0 8)
  | .wait => .wait
  | .stb _ _ => .stb (field w 8 8) (field w 0 8)
  | .ldb _ => .ldb (field w 8 8)
  | .start => .start
  | .write _ => .write (w.getLsbD 3)
  | .read _ => .read (w.getLsbD 4)
  | .stop => .stop

/-- A word that selects the row of an instruction is read as that instruction with the word's own operands: the one row
settles every test of both decoders. -/
theorem decode_of_row {w : Word} {i : Instr} (h : i.row.selects w = true) :
    decode w = .ok (i.withOperandsOf w) := by
  have hsel := selects_eq_decide (row_mem i) h
  simp only [hcmdRows, slotRows, List.cons_append, List.nil_append, List.forall_mem_cons] at hsel
  obtain ⟨hwrreg, hrdreg, hwait, hstb, hldb, hstart, hwrite, hread, hstop, -⟩ := hsel
  simp only [decode, decodeHcmd, decodeSlot, hwrreg, hrdreg, hwait, hstb, hldb, hstart, hwrite, hread, hstop]
  cases i <;> rfl

/-- `ReadsRow w i`: the word w selects the row of i, and its operands are those of i. -/
structure ReadsRow (w : Word) (i : Instr) : Prop where
  row      : i.row.selects w = true
  operands : i.withOperandsOf w = i

/-- Everything the decoder of host command words can answer. -/
theorem decodeHcmd_cases (w : Word) :
    (∃ i, decodeHcmd w = .ok i ∧ ReadsRow w i) ∨
    (decodeHcmd w = .error (hcmdReject w) ∧ ∀ r ∈ hcmdRows, r.selects w = false) := by
  unfold decodeHcmd
  repeat' split
  case isFalse => exact .inr ⟨rfl, by simp_all [hcmdRows]⟩
  all_goals
    rename_i h
    exact .inl ⟨_, rfl, h, rfl⟩

/-- Everything the decoder of slot words can answer. -/
theorem decodeSlot_cases (w : Word) :
    (∃ i, decodeSlot w = .ok i ∧ ReadsRow w i) ∨
    (decodeSlot w = .error (slotReject w) ∧ ∀ r ∈ slotRows, r.selects w = false) := by
  unfold decodeSlot
  repeat' split
  case isFalse => exact .inr ⟨rfl, by simp_all [slotRows]⟩
  all_goals
    rename_i h
    exact .inl ⟨_, rfl, h, rfl⟩

theorem decodeHcmd_row_mem {w : Word} {i : Instr} (h : decodeHcmd w = .ok i) : i.row ∈ hcmdRows :=
  row_mem_hcmdRows (Machine.decodeHcmd_isHostOp h)

theorem decodeSlot_row_mem {w : Word} {i : Instr} (h : decodeSlot w = .ok i) : i.row ∈ slotRows :=
  row_mem_slotRows (Machine.slotInstr_isSlot (by rw [slotInstr, h, Except.toOption]))

theorem decodeHcmd_of_no_row {w : Word} (hnone : ∀ r ∈ hcmdRows, r.selects w = false) :
    decodeHcmd w = .error (hcmdReject w) := by
  obtain ⟨i, hd, hi⟩ | ⟨hd, -⟩ := decodeHcmd_cases w
  · exact absurd hi.row (by simp [hnone i.row (decodeHcmd_row_mem hd)])
  · exact hd

theorem decodeSlot_of_no_row {w : Word} (hnone : ∀ r ∈ slotRows, r.selects w = false) :
    decodeSlot w = .error (slotReject w) := by
  obtain ⟨i, hd, hi⟩ | ⟨hd, -⟩ := decodeSlot_cases w
  · exact absurd hi.row (by simp [hnone i.row (decodeSlot_row_mem hd)])
  · exact hd

theorem and_eq_self_of_covers (w : Word) {m : Word} (hm : m = BitVec.allOnes 32) : w &&& m = w := by
  rw [hm, BitVec.and_allOnes]

/-- The code of an instruction at its place is the pattern of the instruction's row. -/
theorem place_code :
    place 1#4 28 = wrregRow.pattern ∧ place 2#4 28 = rdregRow.pattern ∧ place 3#4 28 = waitRow.pattern ∧
    place 4#4 28 = stbRow.pattern ∧ place 5#4 28 = ldbRow.pattern ∧ place 1#3 0 = startRow.pattern ∧
    place 2#3 0 = writeRow.pattern ∧ place 3#3 0 = readRow.pattern ∧ place 4#3 0 = stopRow.pattern := by
  decide

/-- The bits a row fixes and the fields of its operands cover the word. -/
theorem encode_withOperandsOf {w : Word} {i : Instr} (h : i.row.selects w = true) :
    encode (i.withOperandsOf w) = w := by
  have hfixed : i.row.pattern = w &&& i.row.mask := ((Row.selects_iff ..).1 h).symm
  cases i
  all_goals
    rw [Instr.row] at hfixed
    simp only [Instr.withOperandsOf, encode, ofBool_getLsbD, place_field, place_code, hfixed,
      ← BitVec.and_or_distrib_left]
    exact and_eq_self_of_covers w (by decide)

/-- Every operand is at its own bits, and no other operand and no fixed bit is there. -/
theorem withOperandsOf_encode (i : Instr) : i.withOperandsOf (encode i) = i := by
  cases i <;> simp only [Instr.withOperandsOf, encode, getLsbD_eq_field, field_or] <;>
    simp [field_place_same, field_place_apart]

theorem row_selects_encode (i : Instr) : i.row.selects (encode i) = true := by
  cases i with
  | wrreg block ck dev reg len => exact Laws.InRow.wrreg block ck dev reg len
  | rdreg ck dev reg len => exact Laws.InRow.rdreg ck dev reg len
  | wait => exact Laws.InRow.wait
  | stb idx val => exact Laws.InRow.stb idx val
  | ldb idx => exact Laws.InRow.ldb idx
  | start => exact Laws.InRow.start
  | write ackCheck => exact Laws.InRow.write ackCheck
  | read ackVal => exact Laws.InRow.read ackVal
  | stop => exact Laws.InRow.stop

/-- Settles O1: the word of an instruction selects its row, and the fields of the word are its operands. -/
theorem decodeOfEncodeIsTheInstruction : Obligations.DecodeOfEncodeIsTheInstruction := by
  unfold Obligations.DecodeOfEncodeIsTheInstruction
  intro i
  rw [decode_of_row (row_selects_encode i), withOperandsOf_encode]

/-- Whichever decoder read the word, it read a row's instruction. -/
theorem decode_readsRow {w : Word} {i : Instr} (h : decode w = .ok i) : ReadsRow w i := by
  unfold decode at h
  obtain ⟨j, hd, hj⟩ | ⟨hd, -⟩ := decodeHcmd_cases w
  · simp only [hd, Except.ok.injEq] at h
    exact h ▸ hj
  obtain ⟨j, hs, hj⟩ | ⟨hs, -⟩ := decodeSlot_cases w
  · simp only [hd, hs, Except.ok.injEq] at h
    exact h ▸ hj
  · simp [hd, hs] at h

/-- Settles O2: the word selects the row of i and its fields are the operands of i, which together are every bit of it. -/
theorem encodeOfDecodeIsTheWord : Obligations.EncodeOfDecodeIsTheWord := by
  unfold Obligations.EncodeOfDecodeIsTheWord
  intro w i h
  obtain ⟨hrow, hoperands⟩ := decode_readsRow h
  rw [← hoperands, encode_withOperandsOf hrow]

/-- Settles O4: two rows that select one word would agree where both fix a bit, and each decoder answers the instruction of
the row it found or finds none. -/
theorem rowsAreDisjointAndDecodersFollowThem : Obligations.RowsAreDisjointAndDecodersFollowThem := by
  unfold Obligations.RowsAreDisjointAndDecodersFollowThem
  refine ⟨fun w r hr r' hr' => rows_disjoint hr hr', fun w => ?_, fun w => ?_⟩
  · obtain ⟨i, hd, hi⟩ | ⟨hd, hnone⟩ := decodeHcmd_cases w
    · exact iff_of_true ⟨i, hd⟩ ⟨i.row, decodeHcmd_row_mem hd, hi.row⟩
    · exact iff_of_false (by simp [hd]) (by simpa using hnone)
  · obtain ⟨i, hd, hi⟩ | ⟨hd, hnone⟩ := decodeSlot_cases w
    · exact iff_of_true ⟨i, hd⟩ ⟨i.row, decodeSlot_row_mem hd, hi.row⟩
    · exact iff_of_false (by simp [hd]) (by simpa using hnone)

/-- Settles O3: twelve words, each read by its decoder. -/
theorem writtenOutWordsDecode : Obligations.WrittenOutWordsDecode := by
  unfold Obligations.WrittenOutWordsDecode
  decide

end Sys2Proof
end

section
/-!
The assembler (spec/30_encoding.md R118): the operand ranges of each line in figures, and the operands kept.
-/
namespace Sys2Proof

theorem AsmLine.wf_wrreg (dev reg len block ck : Nat) :
    (AsmLine.wrreg dev reg len block ck).wf = true ↔ dev ≤ 127 ∧ reg ≤ 255 ∧ len ≤ 255 ∧ block ≤ 1 ∧ ck ≤ 1 := by
  simp only [AsmLine.wf, Bool.and_eq_true, decide_eq_true_eq]
  omega

theorem AsmLine.wf_rdreg (dev reg len ck : Nat) :
    (AsmLine.rdreg dev reg len ck).wf = true ↔ dev ≤ 127 ∧ reg ≤ 255 ∧ len ≤ 255 ∧ ck ≤ 1 := by
  simp only [AsmLine.wf, Bool.and_eq_true, decide_eq_true_eq]
  omega

theorem AsmLine.wf_stb (idx val : Nat) : (AsmLine.stb idx val).wf = true ↔ idx ≤ 255 ∧ val ≤ 255 := by
  simp only [AsmLine.wf, Bool.and_eq_true, decide_eq_true_eq]
  omega

theorem AsmLine.wf_ldb (idx : Nat) : (AsmLine.ldb idx).wf = true ↔ idx ≤ 255 := by
  simp only [AsmLine.wf, decide_eq_true_eq]
  omega

/-- A line is rejected for its operands' ranges and for nothing else. -/
theorem assemble_eq_none_iff (l : AsmLine) : assemble l = none ↔ ¬ l.wf = true := by
  unfold assemble
  split
  case isTrue hwf => cases l <;> simp [hwf]
  case isFalse hwf => simp [hwf]

theorem toNat_decide_eq_one {n : Nat} (h : n ≤ 1) : (decide (n = 1)).toNat = n := by
  interval_cases n <;> rfl

theorem toNat_ofNat_of_le {m n : Nat} (h : n ≤ 2 ^ m - 1) : (BitVec.ofNat m n).toNat = n := by
  have hpos := Nat.two_pow_pos m
  rw [BitVec.toNat_ofNat, Nat.mod_eq_of_lt (by omega)]

/-- Settles O5: the ranges are those of a well-formed line, and a number in range is the value of its operand. -/
theorem assemblerRejectsOutOfRangeOperands : Obligations.AssemblerRejectsOutOfRangeOperands := by
  unfold Obligations.AssemblerRejectsOutOfRangeOperands
  refine ⟨fun l => by rw [assemble_eq_none_iff, Bool.not_eq_true], fun dev reg len block ck => ?_,
    fun dev reg len ck => ?_, fun idx val => ?_, fun idx => ?_, fun dev reg len block ck hdev hreg hlen hblock hck => ?_,
    fun dev reg len ck hdev hreg hlen hck => ?_, fun idx val hidx hval => ?_, fun idx hidx => ?_, rfl⟩
  · rw [assemble_eq_none_iff, AsmLine.wf_wrreg]; omega
  · rw [assemble_eq_none_iff, AsmLine.wf_rdreg]; omega
  · rw [assemble_eq_none_iff, AsmLine.wf_stb]; omega
  · rw [assemble_eq_none_iff, AsmLine.wf_ldb]; omega
  · exact ⟨_, _, _, _, _, if_pos ((AsmLine.wf_wrreg ..).2 ⟨hdev, hreg, hlen, hblock, hck⟩), toNat_decide_eq_one hblock,
      toNat_decide_eq_one hck, toNat_ofNat_of_le hdev, toNat_ofNat_of_le hreg, toNat_ofNat_of_le hlen⟩
  · exact ⟨_, _, _, _, if_pos ((AsmLine.wf_rdreg ..).2 ⟨hdev, hreg, hlen, hck⟩), toNat_decide_eq_one hck,
      toNat_ofNat_of_le hdev, toNat_ofNat_of_le hreg, toNat_ofNat_of_le hlen⟩
  · exact ⟨_, _, if_pos ((AsmLine.wf_stb ..).2 ⟨hidx, hval⟩), toNat_ofNat_of_le hidx, toNat_ofNat_of_le hval⟩
  · exact ⟨_, if_pos ((AsmLine.wf_ldb _).2 hidx), toNat_ofNat_of_le hidx⟩

end Sys2Proof
end

section
/-!
What the machine does with words it has no row for (spec/30_encoding.md R115, R116), and the words it makes itself: the
response word (R108) and the bytes of the TX stream (R113, spec/40_command_builder.md R136).
-/
namespace Sys2Proof.Machine

/-- Settles O6: the decoder finds no row, and HOST's issue step is enabled by HPC alone. -/
theorem reservedHostWordIsRefused : Obligations.ReservedHostWordIsRefused := by
  unfold Obligations.ReservedHostWordIsRefused
  intro s w hnone
  have hd : decodeHcmd w = .error (hcmdReject w) := decodeHcmd_of_no_row hnone
  refine ⟨⟨_, hd⟩, fun hawake hw => ?_⟩
  obtain ⟨hlt, -⟩ := List.getElem?_eq_some_iff.1 hw
  exact ⟨by simp [moveEnabled, hostEnabled, hawake, hlt], by simp [takeMove, hostStep, hawake, hw, hostIssue, hd]⟩

/-- The builder's words are encoded slot commands, and an encoded instruction selects its row. -/
theorem buildWords_executable {k : Kind} {len : Nat} {ck : Bool} {w : Word} (h : w ∈ buildWords k len ck) :
    ∃ r ∈ slotRows, r.selects w = true := by
  obtain ⟨i, hi, rfl⟩ := List.mem_map.1 h
  exact ⟨i.row, row_mem_slotRows (buildSlots_slotOp hi), row_selects_encode i⟩

/-- Settles O7: no row, so no current slot, and only the hang asks for none. -/
theorem reservedSlotWordLeavesOnlyTheHang : Obligations.ReservedSlotWordLeavesOnlyTheHang := by
  unfold Obligations.ReservedSlotWordLeavesOnlyTheHang
  refine ⟨fun k len ck w hw => buildWords_executable hw, fun s w hrun hw hnone => ?_⟩
  have hslot : currentSlot s = none := by simp [currentSlot, hw, slotInstr, decodeSlot_of_no_row hnone, Except.toOption]
  have hnormal : seqNormalEnabled s = false := by simp [seqNormalEnabled, hslot]
  exact ⟨hnormal, hnormal, hrun⟩

theorem respWord_field (c : Code) (d : Byte) (lo n : Nat) : (respWord c d).extractLsb' lo n =
    field (place 1#1 31) lo n ||| field (place d 8) lo n ||| field (place (codeNum c) 0) lo n := by
  rw [respWord, ← field_or, ← field_or, field]

/-- Settles O8: VALID, DATA and CODE are placed apart, and bits 30:16 and 7:3 are apart from all three. -/
theorem responseWordHasItsFields : Obligations.ResponseWordHasItsFields := by
  unfold Obligations.ResponseWordHasItsFields
  intro c d
  refine ⟨respValid_respWord c d, ?_, ?_, ?_, ?_⟩
  · simp [respData, respWord_field, field_place_same, field_place_apart]
  · simp [respCode, respWord_field, field_place_same, field_place_apart]
  · simp [respWord_field, field_place_apart]
  · simp [respWord_field, field_place_apart]

/-- The direction bit stands below DEVADDR, so putting the two together is adding them (R113). -/
theorem addrByte_toNat (dev : BitVec 7) (rd : Bool) : (addrByte dev rd).toNat = 2 * dev.toNat + rd.toNat := by
  have hdev := dev.isLt
  have hrd : rd.toNat < 2 := rd.toNat_lt
  have hor : dev.toNat <<< 1 + rd.toNat = dev.toNat <<< 1 ||| rd.toNat := Nat.shiftLeft_add_eq_or_of_lt hrd _
  rw [addrByte, BitVec.toNat_or, BitVec.toNat_shiftLeft, BitVec.toNat_setWidth, BitVec.toNat_setWidth,
    BitVec.toNat_ofBool, Nat.mod_eq_of_lt (a := rd.toNat) (by omega), Nat.mod_eq_of_lt (a := dev.toNat) (by omega),
    Nat.mod_eq_of_lt (by omega), ← hor]
  omega

/-- Settles O11: the address byte by value, and each byte of the stream by its index; a payload byte's index in the stream is
2 above its index in BUF. -/
theorem transmitStreamBytes : Obligations.TransmitStreamBytes := by
  unfold Obligations.TransmitStreamBytes
  refine ⟨addrByte_toNat, fun s => ?_, fun s hk => ?_, fun s i b hk hi hb => ?_⟩
  · cases hk : s.opr.kind <;> simp [txByte, hk, txByteWrite, txByteRead, addrByte_toNat]
  · simp [txByte, hk, txByteRead, addrByte_toNat]
  · have hpay : bufIndex (BitVec.ofNat 5 (i + 2) - 2#5) = BitVec.ofNat 8 i := bufIndex_sub_two (by omega) (by omega)
    have h0 : BitVec.ofNat 5 (i + 2) ≠ 0#5 := by bv_omega
    have h1 : BitVec.ofNat 5 (i + 2) ≠ 1#5 := by bv_omega
    simp [txByte, hk, txByteWrite, h0, h1, hpay, readBuf, hb]

end Sys2Proof.Machine
end

section
/-!
Where each slot command stands in a built sequence (spec/40_command_builder.md R131, R132, R137), read off the slot at every
index (Laws/Build.lean), and the length check as the capacity of CMD (R133, R134, R135).
-/
namespace Sys2Proof.Machine

/-- START opens the sequence and, in a read, is repeated after the two bytes that address the register. -/
theorem buildSlots_start_iff {k : Kind} {len : Byte} (ck : Bool) (hv : validLen k len = true) (j : Nat) :
    (buildSlots k len.toNat ck)[j]? = some .start ↔ j = 0 ∨ k = .read ∧ j = 3 := by
  cases k
  · simp only [buildSlots, buildWriteSlots_get, ite_eq_iff, Option.some.injEq, reduceCtorEq, and_true, and_false, or_false,
      false_and]
  · rw [validLen_read_iff] at hv
    simp only [buildSlots, buildReadSlots_get _ _ _ hv.1, ite_eq_iff, Option.some.injEq, reduceCtorEq, and_true, and_false,
      or_false, false_or, true_and]
    omega

theorem buildSlots_stop_iff {k : Kind} {len : Byte} (ck : Bool) (hv : validLen k len = true) (j : Nat) :
    (buildSlots k len.toNat ck)[j]? = some .stop ↔ j + 1 = buildSize k len.toNat := by
  cases k
  · simp only [buildSlots, buildWriteSlots_get, buildSize, ite_eq_iff, Option.some.injEq, reduceCtorEq,
      and_true, and_false, or_false, false_or]
    omega
  · rw [validLen_read_iff] at hv
    simp only [buildSlots, buildReadSlots_get _ _ _ hv.1, buildSize, ite_eq_iff, Option.some.injEq, reduceCtorEq,
      and_true, and_false, or_false, false_or]
    omega

theorem buildWriteSlots_write_iff (len : Nat) (ck : Bool) (j : Nat) :
    (buildWriteSlots len ck)[j]? = some (.write ck) ↔ 1 ≤ j ∧ j ≤ len + 2 := by
  simp only [buildWriteSlots_get, ite_eq_iff, Option.some.injEq, reduceCtorEq, and_true, and_false, or_false, false_or]
  omega

theorem buildReadSlots_write_iff {len : Nat} (ck : Bool) (hl : 1 ≤ len) (j : Nat) :
    (buildReadSlots len ck)[j]? = some (.write ck) ↔ j = 1 ∨ j = 2 ∨ j = 4 := by
  simp only [buildReadSlots_get _ _ _ hl, ite_eq_iff, Option.some.injEq, reduceCtorEq,
    and_true, and_false, or_false, false_or]
  omega

theorem buildReadSlots_read_false_iff {len : Nat} (ck : Bool) (hl : 1 ≤ len) (j : Nat) :
    (buildReadSlots len ck)[j]? = some (.read false) ↔ 5 ≤ j ∧ j ≤ len + 3 := by
  simp only [buildReadSlots_get _ _ _ hl, ite_eq_iff, Option.some.injEq, Instr.read.injEq, reduceCtorEq,
    and_true, and_false, or_false, false_or]
  omega

theorem buildReadSlots_read_true_iff {len : Nat} (ck : Bool) (hl : 1 ≤ len) (j : Nat) :
    (buildReadSlots len ck)[j]? = some (.read true) ↔ j = len + 4 := by
  simp only [buildReadSlots_get _ _ _ hl, ite_eq_iff, Option.some.injEq, Instr.read.injEq, reduceCtorEq,
    and_true, and_false, or_false, false_or]
  omega

theorem read_not_mem_buildWriteSlots (len : Nat) (ck v : Bool) : .read v ∉ buildWriteSlots len ck := by
  simp [buildWriteSlots]

theorem ackCheck_of_mem_buildSlots {k : Kind} {len : Nat} {ck c : Bool} (h : .write c ∈ buildSlots k len ck) : c = ck := by
  cases k
  · simp only [buildSlots, buildWriteSlots, List.mem_append, List.mem_singleton, List.mem_replicate, reduceCtorEq,
      Instr.write.injEq] at h
    tauto
  · simp only [buildSlots, buildReadSlots, List.mem_append, List.mem_singleton, List.mem_replicate, reduceCtorEq,
      Instr.write.injEq] at h
    tauto

theorem isWrite_iff (i : Instr) : i.isWrite = true ↔ ∃ c, i = .write c := by
  cases i <;> simp [Instr.isWrite]

theorem isRead_iff (i : Instr) : i.isRead = true ↔ ∃ v, i = .read v := by
  cases i <;> simp [Instr.isRead]

theorem buildSlots_write_before_read {k : Kind} {len : Byte} {ck c v : Bool} {a b : Nat} (hv : validLen k len = true)
    (hw : (buildSlots k len.toNat ck)[a]? = some (.write c)) (hr : (buildSlots k len.toNat ck)[b]? = some (.read v)) :
    a < b := by
  obtain rfl := ackCheck_of_mem_buildSlots (List.mem_of_getElem? hw)
  cases k
  · exact absurd (List.mem_of_getElem? hr) (read_not_mem_buildWriteSlots _ _ v)
  · obtain ⟨hl, -⟩ := (validLen_read_iff len).1 hv
    have ha : a ≤ 4 := by
      have := (buildReadSlots_write_iff c hl a).1 hw
      omega
    have hb : 5 ≤ b := by
      cases v
      · exact ((buildReadSlots_read_false_iff c hl b).1 hr).1
      · have := (buildReadSlots_read_true_iff c hl b).1 hr
        omega
    omega

/-- The last READ, alone in carrying ACK_VAL 1, stands just before STOP. -/
theorem buildSlots_read_true_iff {k : Kind} {len : Byte} (ck : Bool) (hv : validLen k len = true) (j : Nat) :
    (buildSlots k len.toNat ck)[j]? = some (.read true) ↔ k = .read ∧ j + 2 = buildSize k len.toNat := by
  cases k
  · simpa [buildSlots] using fun h => read_not_mem_buildWriteSlots _ _ _ (List.mem_of_getElem? h)
  · rw [validLen_read_iff] at hv
    rw [buildSlots, buildReadSlots_read_true_iff ck hv.1, buildSize]
    simp

/-- The six words of the slot commands. -/
theorem encode_slotOp_mem {i : Instr} (h : i.isHostOp = false) :
    encode i ∈ [1#32, 2#32, 0xA#32, 3#32, 0x13#32, 4#32] := by
  cases i
  case start => decide
  case stop => decide
  case write ck => cases ck <;> decide
  case read v => cases v <;> decide
  all_goals exact nomatch h

/-- Settles O9: the slot at every index of the two sequences gives the place of each command, and the places give the order of
WRITE and READ. -/
theorem builtSequenceHasItsShape : Obligations.BuiltSequenceHasItsShape := by
  unfold Obligations.BuiltSequenceHasItsShape
  intro k len ck hv l
  have hlen : l.length = buildSize k len.toNat := buildSlots_length ck hv
  obtain ⟨hwrites, hreads⟩ := count_total ck hv
  obtain ⟨hmin, hmax⟩ := buildSize_bounds hv
  refine ⟨hlen, hlen ▸ hmin, hlen ▸ hmax, (buildSlots_start_iff ck hv 0).2 (.inl rfl), ?stop, ?words, ?order, hwrites, hreads,
    ?lastRead, fun j c h => ackCheck_of_mem_buildSlots (List.mem_of_getElem? h), buildSlots_start_iff ck hv, ?write, ?read⟩
  case stop => exact hlen ▸ buildSlots_stop_iff ck hv
  case words =>
    intro w hw
    obtain ⟨i, hi, rfl⟩ := List.mem_map.1 hw
    exact encode_slotOp_mem (buildSlots_slotOp hi)
  case order =>
    intro a b hw hr
    simp only [Option.any_eq_true, isWrite_iff, isRead_iff] at hw hr
    obtain ⟨-, ha, c, rfl⟩ := hw
    obtain ⟨-, hb, v, rfl⟩ := hr
    exact buildSlots_write_before_read hv ha hb
  case lastRead => exact hlen ▸ buildSlots_read_true_iff ck hv
  case write =>
    rintro rfl
    exact buildWriteSlots_write_iff len.toNat ck
  case read =>
    rintro rfl
    obtain ⟨hl, -⟩ := (validLen_read_iff len).1 hv
    exact ⟨buildReadSlots_write_iff ck hl, buildReadSlots_read_false_iff ck hl⟩

/-- The size of a sequence needs only that it carries a byte, no upper bound. -/
theorem buildWords_length_of_pos {k : Kind} {len : Nat} (ck : Bool) (hl : 1 ≤ len) :
    (buildWords k len ck).length = buildSize k len := by
  cases k
  · simp [buildWords, buildSlots, buildWriteSlots, buildSize]
  · simp [buildWords, buildSlots, buildReadSlots, buildSize]
    omega

theorem validLen_iff_buildSize_le (k : Kind) (len : Byte) :
    validLen k len = true ↔ 1 ≤ len.toNat ∧ buildSize k len.toNat ≤ 32 := by
  cases k
  · rw [validLen_write_iff, buildSize]
    omega
  · rw [validLen_read_iff, buildSize]
    omega

/-- Settles O10: with at least one byte the sequence has its size, and the size is at most 32 exactly at the valid lengths. -/
theorem lengthCheckIsTheBufferCapacity : Obligations.LengthCheckIsTheBufferCapacity := by
  unfold Obligations.LengthCheckIsTheBufferCapacity
  refine ⟨fun k len ck hl => ?size, fun k len ck => ?capacity, validLen_write_iff, validLen_read_iff, ?lengths⟩
  case size =>
    rw [buildWords_length_of_pos ck hl]
    cases k <;> rfl
  case capacity =>
    rw [validLen_iff_buildSize_le]
    exact and_congr_right fun hl => by rw [buildWords_length_of_pos ck hl]
  case lengths =>
    intro k
    cases k <;> decide

end Sys2Proof.Machine
end

section
/-!
The slot commands (spec/41_slot_commands.md R152 to R165): the whole next state of each normal step, of the hang step and of
the arbitration-loss step, and what each slot command leaves unchanged.
-/
namespace Sys2Proof.Machine

/-! The meaning of a slot command, where it is held and where it is not. -/

theorem exec_start (s : State) :
    exec .start s = .next (advance { emit (if s.busOwn then .restart else .start) s with busOwn := true }) := rfl

theorem exec_stop (s : State) : exec .stop s = .next (advance { emit .stop s with busOwn := false }) := rfl

theorem exec_write_of_nil (ackCheck : Bool) {s : State} (h : s.txFifo = []) : exec (.write ackCheck) s = .next s := by
  simp only [exec, execWrite, h]

theorem exec_write_of_cons (ackCheck : Bool) {s : State} {b : Byte} {q : List Byte} (h : s.txFifo = b :: q) :
    exec (.write ackCheck) s = .next (transmit ackCheck b q s) := by
  simp only [exec, execWrite, h]

theorem exec_read_of_full (ackVal : Bool) {s : State} (h : s.rxFifo.length = s.params.rxDepth) :
    exec (.read ackVal) s = .next s := if_pos ((rxfLevel_iff s).2 h)

theorem exec_read_of_not_full (ackVal : Bool) {s : State} (h : s.rxFifo.length ≠ s.params.rxDepth) :
    exec (.read ackVal) s = .next (receive ackVal (currentInput s).byte s) := if_neg (mt (rxfLevel_iff s).1 h)

/-! The whole next state. -/

/-- The advance writes CMDPTR, DONE and SEQ_RUN (R152). -/
theorem advance_eq (s : State) : advance s = { s with
    cmdPtr := s.cmdPtr + 1#6
    intPend := if s.cmdPtr + 1#6 = s.cmdLen then s.intPend ||| 0x10#6 else s.intPend
    seqRun := if s.cmdPtr + 1#6 = s.cmdLen then false else s.seqRun } := by
  by_cases h : s.cmdPtr + 1#6 = s.cmdLen <;> simp [advance, raiseEvent, eventMask, h]

/-- Settles O21: START takes the bus and advances. -/
theorem startTakesTheBus : Obligations.StartTakesTheBus := by
  unfold Obligations.StartTakesTheBus
  intro s
  rw [exec_start, advance_eq]
  exact ⟨rfl, rfl⟩

/-- Settles O24: STOP releases the bus and advances. -/
theorem stopReleasesTheBus : Obligations.StopReleasesTheBus := by
  unfold Obligations.StopReleasesTheBus
  intro s
  rw [exec_stop, advance_eq]
  exact ⟨rfl, rfl⟩

/-- Settles O22: the byte popped may be the last in TXFIFO or not, and the answer of the bus halts SEQ or lets it advance. -/
theorem writeTransmitsOneByte : Obligations.WriteTransmitsOneByte := by
  unfold Obligations.WriteTransmitsOneByte
  refine ⟨fun _ => txeLevel_iff, fun ackCheck s b q hq => ?_⟩
  dsimp only
  rw [exec_write_of_cons ackCheck hq, transmit]
  by_cases hhalt : (currentInput s).ack = .nack ∧ ackCheck = true
  · rw [if_pos hhalt, if_pos hhalt]
    by_cases hlast : q = [] <;> simp only [hlast, if_true, if_false] <;> rfl
  · rw [if_neg hhalt, if_neg hhalt, advance_eq]
    by_cases hlast : q = [] <;> simp only [hlast, if_true, if_false] <;> rfl

/-- Settles O23: the byte received fills RXFIFO or does not, and SEQ advances. -/
theorem readReceivesOneByte : Obligations.ReadReceivesOneByte := by
  unfold Obligations.ReadReceivesOneByte
  refine ⟨fun _ => rxfLevel_iff, fun ackVal s hroom => ?_⟩
  rw [exec_read_of_not_full ackVal hroom, receive, advance_eq]
  by_cases hfull : s.rxFifo.length + 1 = s.params.rxDepth
  · simp [hfull, rxfLevel, raiseEvent, eventMask, emit, masterAck]
  · simp [hfull, rxfLevel, emit, masterAck]

/-! The two steps of SEQ that do not complete the slot. -/

theorem currentSlotKind_eq {s : State} {i : Instr} {k : SlotKind} (hc : currentSlot s = some i)
    (hk : slotKindOf i = some k) : currentSlotKind s = k := by
  simp [currentSlotKind, hc, hk]

/-- Settles O27: the hang asks for SEQ_RUN only, and its event names the slot at CMDPTR. -/
theorem hangRaisesTimeoutAndHalts : Obligations.HangRaisesTimeoutAndHalts := by
  unfold Obligations.HangRaisesTimeoutAndHalts
  refine ⟨fun _ => rfl, fun s i k _ hc hk => ?_⟩
  rw [takeMove, seqHang, currentSlotKind_eq hc hk]
  rfl

/-- Settles O28: the two steps have one enabling condition, and the event names the slot at CMDPTR. -/
theorem arbitrationLossRaisesArblostAndHalts : Obligations.ArbitrationLossRaisesArblostAndHalts := by
  unfold Obligations.ArbitrationLossRaisesArblostAndHalts
  refine ⟨fun _ => rfl, fun s i k _ hc _ hk => ?_⟩
  rw [takeMove, seqArbLoss, currentSlotKind_eq hc hk]
  rfl

theorem seqNormalEnabled_of_held {s : State} {i : Instr} (hc : currentSlot s = some i) (hh : slotHeld i s = true) :
    seqNormalEnabled s = false := by
  simp [seqNormalEnabled, hc, hh]

/-- Settles O26: an empty TXFIFO holds a WRITE, a full RXFIFO a READ, and the hang asks for SEQ_RUN only. -/
theorem heldSlotLeavesOnlyTheHang : Obligations.HeldSlotLeavesOnlyTheHang := by
  unfold Obligations.HeldSlotLeavesOnlyTheHang
  intro s k hrun hslot
  have hnormal : seqNormalEnabled s = false := by
    rcases hslot with ⟨hc, hempty⟩ | ⟨hc, hfull⟩
    · exact seqNormalEnabled_of_held hc ((txeLevel_iff s).2 hempty)
    · exact seqNormalEnabled_of_held hc ((rxfLevel_iff s).2 hfull)
  exact ⟨hnormal, hnormal, hrun⟩

/-! Raising an event leaves the other pending bits. -/

theorem getLsbD_or_eventMask {e : Event} {n : Nat} (h : n ≠ eventBit e) (p : BitVec 6) :
    (p ||| eventMask e).getLsbD n = p.getLsbD n := by
  have hmask : eventMask e = BitVec.twoPow 6 (eventBit e) := by cases e <;> rfl
  have hbit : decide (eventBit e = n) = false := decide_eq_false h.symm
  rw [BitVec.getLsbD_or, hmask, BitVec.getLsbD_twoPow, hbit, Bool.and_false, Bool.or_false]

/-- An event that is raised on a condition. -/
theorem getLsbD_ite_raiseEvent {e : Event} {n : Nat} (h : n ≠ eventBit e) (c : Prop) [Decidable c] (s : State) :
    (if c then raiseEvent e s else s).intPend.getLsbD n = s.intPend.getLsbD n := by
  split
  · exact getLsbD_or_eventMask h _
  · rfl

theorem advance_getLsbD {n : Nat} (h : n ≠ eventBit .done) (s : State) :
    (advance s).intPend.getLsbD n = s.intPend.getLsbD n := by
  rw [advance_intPend]
  split
  · exact getLsbD_or_eventMask h _
  · rfl

/-- WRITE can raise TXE, ACKERR and, through its tail, DONE. -/
theorem transmit_getLsbD {n : Nat} (htxe : n ≠ eventBit .txe) (hack : n ≠ eventBit .ackErr) (hdone : n ≠ eventBit .done)
    (ackCheck : Bool) (b : Byte) (rest : List Byte) (s : State) :
    (transmit ackCheck b rest s).intPend.getLsbD n = s.intPend.getLsbD n := by
  simp only [transmit]
  split
  · rw [haltWith_intPend, getLsbD_or_eventMask hack, emit_intPend, getLsbD_ite_raiseEvent htxe]
  · rw [advance_getLsbD hdone, emit_intPend, getLsbD_ite_raiseEvent htxe]

/-- READ can raise RXF and, through its tail, DONE. -/
theorem receive_getLsbD {n : Nat} (hrxf : n ≠ eventBit .rxf) (hdone : n ≠ eventBit .done) (ackVal : Bool) (b : Byte)
    (s : State) : (receive ackVal b s).intPend.getLsbD n = s.intPend.getLsbD n := by
  simp only [receive]
  rw [advance_getLsbD hdone, getLsbD_ite_raiseEvent hrxf, emit_intPend]

/-! The frame. -/

@[simp] theorem transmit_busOwn (ackCheck : Bool) (b : Byte) (rest : List Byte) (s : State) :
    (transmit ackCheck b rest s).busOwn = s.busOwn := by
  simp only [transmit]
  split <;> split <;> simp

@[simp] theorem receive_busOwn (ackVal : Bool) (b : Byte) (s : State) : (receive ackVal b s).busOwn = s.busOwn := by
  simp only [receive, advance_busOwn]
  split <;> rfl

/-- What the slot command i leaves unchanged. -/
structure SlotFrame (i : Instr) (s t : State) : Prop where
  host    : SameHostSide s t
  buffer  : SameBuffer s t
  timeout : t.intPend.getLsbD 3 = s.intPend.getLsbD 3
  arbLost : t.intPend.getLsbD 5 = s.intPend.getLsbD 5
  txSide  : i.isWrite = false → t.txFifo = s.txFifo ∧ t.intPend.getLsbD 0 = s.intPend.getLsbD 0 ∧
    t.intPend.getLsbD 2 = s.intPend.getLsbD 2
  rxSide  : i.isRead = false → t.rxFifo = s.rxFifo ∧ t.intPend.getLsbD 1 = s.intPend.getLsbD 1
  bus     : i.isWrite = true ∨ i.isRead = true → t.busOwn = s.busOwn

/-- A held slot changes nothing. -/
theorem SlotFrame.refl (i : Instr) (s : State) : SlotFrame i s s := by
  constructor
  case host => constructor <;> rfl
  case buffer => constructor <;> rfl
  all_goals simp

/-- START and STOP emit their event, write BUSOWN and advance. -/
theorem slotFrame_advance {i : Instr} (hw : i.isWrite = false) (hr : i.isRead = false) (e : BusEvent) (own : Bool)
    (s : State) : SlotFrame i s (advance { emit e s with busOwn := own }) where
  host := by constructor <;> simp
  buffer := by constructor <;> simp
  timeout := advance_getLsbD (by decide) _
  arbLost := advance_getLsbD (by decide) _
  txSide := fun _ => ⟨by simp, advance_getLsbD (by decide) _, advance_getLsbD (by decide) _⟩
  rxSide := fun _ => ⟨by simp, advance_getLsbD (by decide) _⟩
  bus := by simp [hw, hr]

theorem slotFrame_transmit (ackCheck : Bool) (b : Byte) (rest : List Byte) (s : State) :
    SlotFrame (.write ackCheck) s (transmit ackCheck b rest s) where
  host := transmit_sameHostSide ..
  buffer := by constructor <;> simp
  timeout := transmit_getLsbD (by decide) (by decide) (by decide) ..
  arbLost := transmit_getLsbD (by decide) (by decide) (by decide) ..
  txSide := nofun
  rxSide := fun _ => ⟨by simp, transmit_getLsbD (by decide) (by decide) (by decide) ..⟩
  bus := fun _ => by simp

theorem slotFrame_receive (ackVal : Bool) (b : Byte) (s : State) :
    SlotFrame (.read ackVal) s (receive ackVal b s) where
  host := receive_sameHostSide ..
  buffer := by constructor <;> simp
  timeout := receive_getLsbD (by decide) (by decide) ..
  arbLost := receive_getLsbD (by decide) (by decide) ..
  txSide := fun _ => ⟨by simp, receive_getLsbD (by decide) (by decide) .., receive_getLsbD (by decide) (by decide) ..⟩
  rxSide := nofun
  bus := fun _ => by simp

/-- Every slot command has a next state that keeps its frame. -/
theorem exec_slotFrame {i : Instr} (hop : i.isHostOp = false) (s : State) : ∃ t, exec i s = .next t ∧ SlotFrame i s t := by
  cases i
  case start => exact ⟨_, exec_start s, slotFrame_advance rfl rfl _ _ s⟩
  case stop => exact ⟨_, exec_stop s, slotFrame_advance rfl rfl _ _ s⟩
  case write ackCheck =>
    rcases hq : s.txFifo with _ | ⟨b, q⟩
    · exact ⟨s, exec_write_of_nil ackCheck hq, .refl _ s⟩
    · exact ⟨_, exec_write_of_cons ackCheck hq, slotFrame_transmit ..⟩
  case read ackVal =>
    by_cases hfull : s.rxFifo.length = s.params.rxDepth
    · exact ⟨s, exec_read_of_full ackVal hfull, .refl _ s⟩
    · exact ⟨_, exec_read_of_not_full ackVal hfull, slotFrame_receive ..⟩
  all_goals exact nomatch hop

/-- Settles O25: each slot command's next state keeps its frame, held or not. -/
theorem slotCommandFrame : Obligations.SlotCommandFrame := by
  unfold Obligations.SlotCommandFrame
  intro i s t hop h
  obtain ⟨u, hu, hhost, ⟨hbuf, htxIdx, hrxIdx⟩, htimeout, harbLost, htx, hrx, hbus⟩ := exec_slotFrame hop s
  obtain rfl : u = t := Host.Outcome.next.inj (hu.symm.trans h)
  exact ⟨hhost, htxIdx, hrxIdx, fun a => by rw [hbuf], htimeout, harbLost, htx, hrx, hbus⟩

end Sys2Proof.Machine
end

section
/-!
SEQ and IRQ together (spec/41_slot_commands.md R150, R153, R168): a running sequencer is at a slot of the built sequence, and
where that slot is held the classifier has a service to do that lifts the hold.
-/
namespace Sys2Proof.Machine

/-! The slot of a running sequencer. -/

/-- Where SEQ runs CMDPTR is below CMDLEN, the length of the built sequence, so there is a slot. -/
theorem Inv.slot_of_seqRun {s : State} (hI : Inv s) (hr : s.seqRun = true) :
    ∃ i, currentSlot s = some i ∧ (slotsOf s)[s.cmdPtr.toNat]? = some i := by
  obtain ⟨hbuilt, -, ⟨hrunning, -⟩, -⟩ := hI.transaction (hI.inProgress_of_seqRun hr)
  obtain ⟨-, hlt⟩ := hrunning hr
  have hin : s.cmdPtr.toNat < (slotsOf s).length := by
    rw [slotsOf, buildSlots_length _ hbuilt.1, ← cmdLen_toNat hbuilt]
    exact hlt
  exact ⟨_, (currentSlot_eq hbuilt hlt).trans (List.getElem?_eq_getElem hin), List.getElem?_eq_getElem hin⟩

/-- Outside a transaction SEQ does not run and nothing is pending. -/
theorem Inv.host_of_moveEnabled {s : State} (hI : Inv s) (hb : s.tstate ≠ .inProgress) {m : Move}
    (he : moveEnabled s m = true) : m = .host := by
  have hstopped : s.seqRun ≠ true := fun hr => hb (hI.inProgress_of_seqRun hr)
  have hnormal : seqNormalEnabled s ≠ true := fun h => hstopped (Bool.and_eq_true_iff.1 h).1
  cases m
  case host => rfl
  case irq => exact absurd (hI.inProgress_of_irqLine he) hb
  case seqNormal => exact absurd he hnormal
  case seqArbLoss => exact absurd he hnormal
  case seqHang => exact absurd he hstopped

/-- Settles O46: the invariant puts a running SEQ at a slot of the built sequence, and every agent but HOST has a step in a
transaction only. -/
theorem runningSequencerHasASlot : Obligations.RunningSequencerHasASlot := by
  unfold Obligations.RunningSequencerHasASlot
  refine ⟨fun s hI hr => ?_, fun s m hI hb he => hI.host_of_moveEnabled hb he⟩
  have hb := hI.inProgress_of_seqRun hr
  obtain ⟨-, -, ⟨hrunning, -⟩, -⟩ := hI.transaction hb
  obtain ⟨hterminal, hlt⟩ := hrunning hr
  obtain ⟨i, hc, hi⟩ := hI.slot_of_seqRun hr
  exact ⟨hb, hlt, hterminal, i, hc, currentSlot_isSlot hc, hi⟩

/-! The service that lifts a hold. -/

/-- In a transaction every source is armed. -/
theorem Inv.armedPending_eq {s : State} (hI : Inv s) (hb : s.tstate = .inProgress) : armedPending s = s.intPend := by
  obtain ⟨-, -, harmed, -⟩ := hI.mode
  rw [armedPending, harmed hb]
  exact BitVec.and_allOnes

theorem getLsbD_of_pending {e : Event} {s : State} (hp : Pending e s) : s.intPend.getLsbD (eventBit e) = true := by
  have hbit : ∀ p : BitVec 6, p &&& eventMask e ≠ 0#6 → p.getLsbD (eventBit e) = true := by cases e <;> decide
  exact hbit _ hp

theorem Inv.irqLine_of_pending {s : State} (hI : Inv s) (hb : s.tstate = .inProgress) {e : Event} (hp : Pending e s) :
    irqLine s = true := by
  have hne : s.intPend ≠ 0#6 := fun h => hp (by rw [h, BitVec.zero_and])
  rw [irqLine, hI.armedPending_eq hb]
  exact bne_iff_ne.2 hne

/-- While SEQ runs no terminal event is pending, so the classifier serves. -/
theorem Inv.takeInterrupt_of_seqRun {s : State} (hI : Inv s) (hr : s.seqRun = true) :
    takeInterrupt s = service s.intPend s := by
  have hb := hI.inProgress_of_seqRun hr
  obtain ⟨-, -, ⟨hrunning, -⟩, -⟩ := hI.transaction hb
  obtain ⟨hterminal, -⟩ := hrunning hr
  rw [takeInterrupt, hI.armedPending_eq hb, (classify_service_iff s.intPend).2 hterminal]

/-- At a WRITE slot the stream has bytes left, one for each WRITE not completed: R168's k < TXLEN. -/
theorem writesDone_lt {s : State} (hb : BuiltInv s) {i : Instr} (hi : (slotsOf s)[s.cmdPtr.toNat]? = some i)
    (hw : i.isWrite = true) : writesDone s < s.txLen.toNat := by
  have hle : ((slotsOf s).take (s.cmdPtr.toNat + 1)).countP Instr.isWrite ≤ (slotsOf s).countP Instr.isWrite :=
    (List.take_sublist _ _).countP_le
  have htotal : (slotsOf s).countP Instr.isWrite = s.txLen.toNat := (count_total _ hb.1).1.trans (txLen_toNat hb).symm
  rw [countDone_succ hi, if_pos hw, htotal] at hle
  exact hle

theorem feedCount_afterDrain (p : BitVec 6) (s : State) : feedCount (afterDrain p s) = feedCount s := by
  unfold afterDrain
  split <;> rfl

/-- A service of TXE fills an empty TXFIFO where the stream has bytes left. -/
theorem service_txFifo_ne_nil {s : State} {p : BitVec 6} (hp : p.getLsbD 0 = true) (hcount : 0 < feedCount s) :
    (service p s).txFifo ≠ [] := by
  rw [service_txFifo, if_pos hp, feedResult_fst, feedCount_afterDrain]
  refine List.append_ne_nil_of_right_ne_nil _ (List.ne_nil_of_length_pos ?_)
  rwa [length_streamBytes]

/-- A service of RXF empties RXFIFO. -/
theorem service_rxFifo_eq_nil {s : State} {p : BitVec 6} (hp : p.getLsbD 1 = true) : (service p s).rxFifo = [] := by
  rw [service_rxFifo, afterDrain, if_pos hp, drain_rxFifo]

/-- R168 for WRITE: TXFIFO ran empty before the end of the stream, so TXE is pending, and its service pushes a byte. -/
theorem Inv.write_hold_lifted {s : State} (hI : Inv s) (hr : s.seqRun = true) {i : Instr} (hw : i.isWrite = true)
    (hi : (slotsOf s)[s.cmdPtr.toNat]? = some i) (hempty : s.txFifo = []) :
    irqLine s = true ∧ (takeInterrupt s).txFifo ≠ [] := by
  have hb := hI.inProgress_of_seqRun hr
  obtain ⟨hbuilt, -, -, ⟨hrefill, -⟩⟩ := hI.transaction hb
  obtain ⟨⟨hdepth, -⟩, -⟩ := hI.bounds
  have hidx := hI.txIdx_eq hr
  have hlt := writesDone_lt hbuilt hi hw
  rw [hempty, List.length_nil, Nat.zero_add] at hidx
  have hleft : s.txIdx < s.txLen := BitVec.lt_def.2 (hidx ▸ hlt)
  have hp : Pending .txe s := hrefill ⟨hempty, hleft⟩
  have hcount : 0 < feedCount s := by
    rw [feedCount, hempty, List.length_nil, hidx]
    omega
  refine ⟨hI.irqLine_of_pending hb hp, ?_⟩
  rw [hI.takeInterrupt_of_seqRun hr]
  exact service_txFifo_ne_nil (getLsbD_of_pending hp) hcount

/-- R168 for READ: the push that filled RXFIFO left RXF pending, and its service empties RXFIFO. -/
theorem Inv.read_hold_lifted {s : State} (hI : Inv s) (hr : s.seqRun = true)
    (hfull : s.rxFifo.length = s.params.rxDepth) :
    irqLine s = true ∧ (takeInterrupt s).rxFifo.length ≠ (takeInterrupt s).params.rxDepth := by
  have hb := hI.inProgress_of_seqRun hr
  obtain ⟨-, -, -, ⟨-, hrefill⟩⟩ := hI.transaction hb
  obtain ⟨⟨-, hdepth⟩, -⟩ := hI.bounds
  have hp : Pending .rxf s := hrefill hfull
  refine ⟨hI.irqLine_of_pending hb hp, ?_⟩
  rw [hI.takeInterrupt_of_seqRun hr, service_rxFifo_eq_nil (getLsbD_of_pending hp), service_params, List.length_nil]
  omega

/-- Settles O45: only WRITE and READ are ever held, and the service of TXE or RXF lifts the hold of each. -/
theorem heldSlotIsLiftedByTheInterrupt : Obligations.HeldSlotIsLiftedByTheInterrupt := by
  unfold Obligations.HeldSlotIsLiftedByTheInterrupt
  intro s i hI hr hc hh
  obtain ⟨j, hcj, hj⟩ := hI.slot_of_seqRun hr
  obtain rfl : j = i := Option.some.inj (hcj.symm.trans hc)
  cases j
  case write ackCheck =>
    obtain ⟨hirq, hfilled⟩ := hI.write_hold_lifted hr rfl hj ((txeLevel_iff s).1 hh)
    exact ⟨hirq, eq_false_of_ne_true (mt (txeLevel_iff _).1 hfilled)⟩
  case read ackVal =>
    obtain ⟨hirq, hroom⟩ := hI.read_hold_lifted hr ((rxfLevel_iff s).1 hh)
    exact ⟨hirq, eq_false_of_ne_true (mt (rxfLevel_iff _).1 hroom)⟩
  all_goals exact nomatch hh

end Sys2Proof.Machine
end

section
/-!
The actions of the classifier (spec/42_interrupt_classifier.md R184 to R192): the action a snapshot leads to, and the whole next
state of the feed, the drain, complete and service.
-/
namespace Sys2Proof.Machine

/-- Taking an interrupt is the first action of the priority whose bit is in the snapshot (R184). -/
theorem takeInterrupt_eq (s : State) : takeInterrupt s =
    if (armedPending s).getLsbD 5 = true then abort .arbLost s
    else if (armedPending s).getLsbD 3 = true then abort .timeout s
    else if (armedPending s).getLsbD 2 = true then abort .nack s
    else if (armedPending s).getLsbD 4 = true then complete s
    else service (armedPending s) s := by
  split_ifs <;> simp only [takeInterrupt, classify, eventBit, *, Bool.false_eq_true, if_true, if_false]

/-- Settles O29: IRQ has a step exactly where the request is up, and that step takes the interrupt. -/
theorem classifierFollowsThePriority : Obligations.ClassifierFollowsThePriority := by
  unfold Obligations.ClassifierFollowsThePriority
  exact ⟨irqLine_iff, fun s _ => congrArg _ (takeInterrupt_eq s)⟩

/-- Settles O32: the feed writes TXFIFO and TXIDX only, and its loop pushes `feedCount` bytes. -/
theorem feedPushesTheNextBytes : Obligations.FeedPushesTheNextBytes := by
  unfold Obligations.FeedPushesTheNextBytes
  intro s
  rw [feed, feedResult_eq]
  rfl

/-- RXIDX after a drain that does not wrap. -/
theorem drain_rxIdx_eq_ofNat {s : State} (h : s.rxIdx.toNat + s.rxFifo.length ≤ 31) :
    (drain s).rxIdx = BitVec.ofNat 5 (s.rxIdx.toNat + s.rxFifo.length) := by
  rw [← drain_rxIdx_toNat h, BitVec.ofNat_toNat, BitVec.setWidth_eq]

/-- Settles O31: the byte at an address is one of the queue where the queue went, and as before elsewhere. -/
theorem drainStoresOldestFirst : Obligations.DrainStoresOldestFirst := by
  unfold Obligations.DrainStoresOldestFirst
  intro s hfit
  refine ⟨(drain s).buf, ?_, fun j hj => ?_, fun a hout => ?_⟩
  · rw [← drain_rxIdx_eq_ofNat hfit]
    rfl
  · rw [drain_buf, bufGet_ofNat_drainLoop hfit (by omega), if_pos (by omega), Nat.add_sub_cancel_left]
  · rw [drain_buf, bufGet_drainLoop _ _ _ hfit, if_neg (by omega)]

/-- Settles O33: complete is the drain, and then what every terminal step writes. -/
theorem completeDrainsAndRecordsOk : Obligations.CompleteDrainsAndRecordsOk := by
  unfold Obligations.CompleteDrainsAndRecordsOk
  intro s hfit
  obtain ⟨m, hdrain, hstored, hkept⟩ := drainStoresOldestFirst s hfit
  exact ⟨m, by rw [complete, hdrain, endTransaction], hstored, hkept⟩

theorem service_sameHostSide (p : BitVec 6) (s : State) : SameHostSide s (service p s) := by
  constructor <;> simp

/-- Settles O34: `afterDrain` is the state the feed of a service starts from. -/
theorem serviceFeedsAndDrains : Obligations.ServiceFeedsAndDrains := by
  unfold Obligations.ServiceFeedsAndDrains
  intro p s
  exact ⟨service_sameHostSide p s, service_cmdPtr p s, service_seqRun p s, service_busOwn p s, service_trace p s,
    service_intPend p s, service_buf p s, service_rxIdx p s, service_rxFifo p s, service_txFifo p s, service_txIdx p s⟩

end Sys2Proof.Machine
end

section
/-!
The transition table of TSTATE (spec/42_interrupt_classifier.md R194) and what holds at the end of a transaction (R195, R196,
R197). A transaction ends in an abort or in complete, and in no other step.
-/
namespace Sys2Proof.Machine

/-! The rows of the table. -/

/-- The row of an arm step of a valid request. -/
structure Armed (s u : State) : Prop where
  before  : s.tstate ≠ .inProgress
  tstate  : u.tstate = .inProgress
  valid   : validLen u.opr.kind u.opr.len = true
  sig     : u.sig = false
  intEna  : u.intEna = 0x3F#6
  intPend : u.intPend = 0#6
  seqRun  : u.seqRun = true

/-- HOST writes TSTATE in the arm step only. -/
theorem HostShape.tstate_eq_or_armed {s u : State} (h : HostShape s u) : u.tstate = s.tstate ∨ Armed s u := by
  cases h
  case armBlocking hb hv => exact .inr ⟨hb, rfl, hv, rfl, rfl, rfl, rfl⟩
  case armGoingOn hb hv => exact .inr ⟨hb, rfl, hv, rfl, rfl, rfl, rfl⟩
  all_goals exact .inl rfl

/-- The Completed value of the terminal event with the highest priority in the snapshot p. -/
def terminalState (p : BitVec 6) : TState :=
  if p.getLsbD 5 = true then .completedArbLost else if p.getLsbD 3 = true then .completedTimeout
  else if p.getLsbD 2 = true then .completedNack else .completedOk

theorem classify_abort_terminal (c : AbortCause) : ∀ p : BitVec 6,
    classify p = .abort c → p &&& 0x3C#6 ≠ 0#6 ∧ abortState c = terminalState p := by
  cases c <;> decide

theorem classify_complete_terminal : ∀ p : BitVec 6,
    classify p = .complete → p &&& 0x3C#6 ≠ 0#6 ∧ .completedOk = terminalState p := by
  decide

/-- The row of a terminal step, but for the state before it. -/
structure Ended (s u : State) : Prop where
  event   : armedPending s &&& 0x3C#6 ≠ 0#6
  tstate  : u.tstate = terminalState (armedPending s)
  sig     : u.sig = true
  intEna  : u.intEna = 0#6
  intPend : u.intPend = 0#6

/-- The classifier writes TSTATE in a terminal step only. -/
theorem takeInterrupt_tstate_eq_or_ended (s : State) :
    (takeInterrupt s).tstate = s.tstate ∨ Ended s (takeInterrupt s) := by
  obtain ⟨c, hc, h⟩ | ⟨hc, h⟩ | ⟨-, h⟩ := takeInterrupt_cases s <;> rw [h]
  · obtain ⟨hevent, hstate⟩ := classify_abort_terminal c _ hc
    exact .inr ⟨hevent, hstate, rfl, rfl, rfl⟩
  · obtain ⟨hevent, hstate⟩ := classify_complete_terminal _ hc
    exact .inr ⟨hevent, hstate, rfl, rfl, rfl⟩
  · exact .inl (service_tstate _ s)

/-- Settles O47: HOST writes TSTATE in an arm step, the classifier in a terminal step, and SEQ never. -/
theorem transactionStateFollowsTheTable : Obligations.TransactionStateFollowsTheTable := by
  unfold Obligations.TransactionStateFollowsTheTable
  intro s t hI hstep
  obtain ⟨u, hu, rfl⟩ := step_shape hstep
  cases hu with
  | host h =>
    obtain hsame | ⟨hb, htstate, hvalid, hsig, hena, hpend, hrun⟩ := h.tstate_eq_or_armed
    · exact .inl hsame
    · exact .inr (.inl ⟨hb, htstate, hvalid, hsig, hena, hpend, hrun⟩)
  | irq hi =>
    obtain hsame | ⟨hevent, htstate, hsig, hena, hpend⟩ := takeInterrupt_tstate_eq_or_ended s
    · exact .inl hsame
    · exact .inr (.inr ⟨hI.inProgress_of_irqLine hi, hevent, htstate, hsig, hena, hpend⟩)
  | seq h => exact .inl h.sameHostSide.tstate

/-! The steps that end a transaction. -/

/-- A transaction ends in an abort or in complete. -/
theorem StepShape.terminal_cases {s u : State} (h : StepShape s u) (hb : s.tstate = .inProgress)
    (hu : u.tstate ≠ .inProgress) :
    (∃ c, classify (armedPending s) = .abort c ∧ u = abort c s) ∨
    (classify (armedPending s) = .complete ∧ u = complete s) := by
  cases h with
  | host h =>
    obtain hsame | harmed := h.tstate_eq_or_armed
    · exact absurd (hsame.trans hb) hu
    · exact absurd hb harmed.before
  | irq =>
    obtain hAbort | hComplete | ⟨-, hService⟩ := takeInterrupt_cases s
    · exact .inl hAbort
    · exact .inr hComplete
    · rw [hService, service_tstate] at hu
      exact absurd hb hu
  | seq h => exact absurd (h.sameHostSide.tstate.trans hb) hu

/-- A transaction that ends Ok was completed. -/
theorem StepShape.eq_complete {s u : State} (h : StepShape s u) (hb : s.tstate = .inProgress)
    (hu : u.tstate = .completedOk) : classify (armedPending s) = .complete ∧ u = complete s := by
  obtain ⟨c, -, rfl⟩ | hComplete := h.terminal_cases hb (by simp [hu])
  · exact absurd (.inr hu) (abortState_ended c)
  · exact hComplete

/-- A transaction that ends Nack was aborted for a missing acknowledgment. -/
theorem StepShape.eq_abort_nack {s u : State} (h : StepShape s u) (hb : s.tstate = .inProgress)
    (hu : u.tstate = .completedNack) : classify (armedPending s) = .abort .nack ∧ u = abort .nack s := by
  obtain ⟨c, hc, rfl⟩ | ⟨-, rfl⟩ := h.terminal_cases hb (by simp [hu])
  · cases c
    case nack => exact ⟨hc, rfl⟩
    all_goals exact nomatch hu
  · exact nomatch hu

/-! Where the classifier completes: every slot is done. -/

/-- Complete finds DONE pending, and so CMDPTR at CMDLEN. -/
theorem Inv.cmdPtr_eq_of_complete {s : State} (hI : Inv s) (hb : s.tstate = .inProgress)
    (hc : classify (armedPending s) = .complete) : s.cmdPtr = s.cmdLen := by
  obtain ⟨-, -, ⟨-, -, hdone, -⟩, -⟩ := hI.transaction hb
  have hmask : ∀ p : BitVec 6, classify p = .complete → p &&& eventMask .done ≠ 0#6 := by decide
  have hpending := hmask _ hc
  rw [hI.armedPending_eq hb] at hpending
  exact hdone.1 hpending

/-- SEQ runs below CMDLEN only. -/
theorem Inv.seqRun_eq_false_of_done {s : State} (hI : Inv s) (hb : s.tstate = .inProgress) (hp : s.cmdPtr = s.cmdLen) :
    s.seqRun = false := by
  obtain ⟨-, -, ⟨hrunning, -⟩, -⟩ := hI.transaction hb
  refine eq_false_of_ne_true fun hr => ?_
  obtain ⟨-, hlt⟩ := hrunning hr
  exact BitVec.lt_irrefl _ (hp ▸ hlt)

/-- All of TXLEN is transmitted, and TXIDX is never past TXLEN, so nothing is left in TXFIFO. -/
theorem Inv.txFifo_eq_nil_of_done {s : State} (hI : Inv s) (hb : s.tstate = .inProgress) (hp : s.cmdPtr = s.cmdLen) :
    s.txFifo = [] := by
  obtain ⟨hbuilt, ⟨hpushed, -⟩, -, -⟩ := hI.transaction hb
  obtain ⟨-, -, -, -, -, hbound, -⟩ := hI.bounds
  obtain ⟨hwrites, -⟩ := done_all hbuilt hp
  have hle : s.txIdx.toNat ≤ s.txLen.toNat := hbound
  exact List.eq_nil_of_length_eq_zero (by omega)

/-- The STOP, the last slot, released the bus. -/
theorem Inv.busOwn_eq_false_of_done {s : State} (hI : Inv s) (hb : s.tstate = .inProgress) (hp : s.cmdPtr = s.cmdLen) :
    s.busOwn = false := by
  obtain ⟨-, ⟨-, -, hbus⟩, -, -⟩ := hI.transaction hb
  rw [hbus, hp]
  simp

/-- All of a read's LEN bytes are received. -/
theorem Inv.received_eq_of_done {s : State} (hI : Inv s) (hb : s.tstate = .inProgress) (hp : s.cmdPtr = s.cmdLen)
    (hk : s.opr.kind = .read) : s.rxIdx.toNat + s.rxFifo.length = s.opr.len.toNat := by
  obtain ⟨hbuilt, ⟨-, hread, -⟩, -, -⟩ := hI.transaction hb
  obtain ⟨-, hreads⟩ := done_all hbuilt hp
  rw [hread, hreads, if_pos hk]

/-! The end of a transaction. -/

/-- What the next transaction finds (R197), but for TSTATE. -/
structure Ready (u : State) : Prop where
  sig     : u.sig = true
  seqRun  : u.seqRun = false
  intEna  : u.intEna = 0#6
  intPend : u.intPend = 0#6
  txFifo  : u.txFifo = []
  rxFifo  : u.rxFifo = []
  busOwn  : u.busOwn = false

theorem Ready.irqLine {u : State} (h : Ready u) : irqLine u = false := by
  simp [Machine.irqLine, armedPending, h.intPend]

/-- An abort writes all of it. -/
theorem abort_ready (c : AbortCause) (s : State) : Ready (abort c s) := by
  constructor <;> rfl

/-- Complete leaves SEQ_RUN, TXFIFO and BUSOWN as the last slot left them. -/
theorem Inv.complete_ready {s : State} (hI : Inv s) (hb : s.tstate = .inProgress)
    (hc : classify (armedPending s) = .complete) : Ready (complete s) := by
  have hp := hI.cmdPtr_eq_of_complete hb hc
  constructor
  case seqRun => exact hI.seqRun_eq_false_of_done hb hp
  case txFifo => exact hI.txFifo_eq_nil_of_done hb hp
  case busOwn => exact hI.busOwn_eq_false_of_done hb hp
  all_goals rfl

theorem completed_abortState (c : AbortCause) : completed (abortState c) = true := by
  cases c <;> rfl

/-- A terminal step records a Completed value and leaves the block ready, and RESP and HPC as they were. -/
theorem StepShape.terminal_ready {s u : State} (h : StepShape s u) (hI : Inv s) (hb : s.tstate = .inProgress)
    (hu : u.tstate ≠ .inProgress) : completed u.tstate = true ∧ Ready u ∧ SameResponse s u := by
  obtain ⟨c, -, rfl⟩ | ⟨hc, rfl⟩ := h.terminal_cases hb hu
  · exact ⟨completed_abortState c, abort_ready c s, abort_hpc c s, abort_resp c s⟩
  · exact ⟨rfl, hI.complete_ready hb hc, rfl, rfl⟩

/-- Settles O51: an abort clears the block itself, and complete finds it cleared by the last slot. -/
theorem terminalStepLeavesTheBlockReady : Obligations.TerminalStepLeavesTheBlockReady := by
  unfold Obligations.TerminalStepLeavesTheBlockReady
  intro s t hI hstep hb ht
  obtain ⟨u, hu, rfl⟩ := step_shape hstep
  obtain ⟨hcompleted, hready, hhpc, hresp⟩ := hu.terminal_ready hI hb ht
  have hirq : irqLine (consumeInput u) = false := hready.irqLine
  exact ⟨hcompleted, hready.sig, hready.seqRun, hready.intEna, hready.intPend, hready.txFifo, hready.rxFifo,
    hready.busOwn, hirq, hresp, hhpc⟩

/-! A transaction that ends Nack. -/

/-- At a WRITE slot no READ is completed: every WRITE stands before every READ (R137). -/
theorem readsDone_eq_zero {s : State} (hb : BuiltInv s)
    (hw : ((slotsOf s)[s.cmdPtr.toNat]?).any Instr.isWrite = true) : readsDone s = 0 := by
  simp only [Option.any_eq_true, isWrite_iff] at hw
  obtain ⟨-, hslot, c, rfl⟩ := hw
  refine List.countP_eq_zero.2 fun i hi hread => ?_
  obtain ⟨v, rfl⟩ := (isRead_iff i).1 hread
  obtain ⟨j, hj⟩ := List.mem_iff_getElem?.1 hi
  rw [List.getElem?_take] at hj
  split at hj
  case isTrue hlt => exact absurd (buildSlots_write_before_read hb.1 hslot hj) (by omega)
  case isFalse => exact nomatch hj

/-- The abort for ACKERR finds ACKERR pending, so CMDPTR is at a WRITE and nothing is received. -/
theorem Inv.received_eq_zero_of_nack {s : State} (hI : Inv s) (hb : s.tstate = .inProgress)
    (hc : classify (armedPending s) = .abort .nack) : s.rxIdx.toNat + s.rxFifo.length = 0 := by
  obtain ⟨hbuilt, ⟨-, hread, -⟩, ⟨-, -, -, hack⟩, -⟩ := hI.transaction hb
  obtain ⟨hpending, -⟩ := (classify_nack_iff _).1 hc
  rw [hI.armedPending_eq hb] at hpending
  rw [hread, readsDone_eq_zero hbuilt (hack hpending)]

/-- Settles O52: ACKERR is pending at a WRITE slot only, before the first READ, and its abort leaves BUF. -/
theorem nackLeavesTheBuffer : Obligations.NackLeavesTheBuffer := by
  unfold Obligations.NackLeavesTheBuffer
  intro s t hI hstep hb ht
  obtain ⟨u, hu, rfl⟩ := step_shape hstep
  obtain ⟨hc, rfl⟩ := hu.eq_abort_nack hb ht
  have hzero := hI.received_eq_zero_of_nack hb hc
  exact ⟨BitVec.eq_of_toNat_eq (Nat.eq_zero_of_add_eq_zero hzero).1,
    List.eq_nil_of_length_eq_zero (Nat.eq_zero_of_add_eq_zero hzero).2, fun _ => rfl⟩

/-! A read that completes. -/

theorem length_readStream (s : State) : (readStream s).length = s.rxIdx.toNat + s.rxFifo.length := by
  simp [readStream, bufTaken]

/-- Settles O54: complete finds all LEN bytes received, and its drain puts those in RXFIFO behind those in BUF. -/
theorem completedReadFillsTheBuffer : Obligations.CompletedReadFillsTheBuffer := by
  unfold Obligations.CompletedReadFillsTheBuffer
  intro s t hI hb hk hstep ht
  obtain ⟨u, hu, rfl⟩ := step_shape hstep
  obtain ⟨hc, rfl⟩ := hu.eq_complete hb ht
  have hlen := hI.received_eq_of_done hb (hI.cmdPtr_eq_of_complete hb hc) hk
  have hfit : s.rxIdx.toNat + s.rxFifo.length ≤ 31 := (hI.received_le hb).trans (by decide)
  refine ⟨(drain_rxIdx_toNat hfit).trans hlen, ?_, (length_readStream s).trans hlen, fun a ha => ?_⟩
  · rw [← hlen]
    exact bufTaken_drainLoop s.buf hfit
  · by_contra hne
    obtain ⟨-, hlt⟩ := hI.drain_changes hb hne
    omega

end Sys2Proof.Machine
end

section
/-!
The host operations (spec/43_host_operations.md R211 to R213, R220 to R226): the whole next state of each issue step, for a
busy controller and for one that is not, with the response word in figures.
-/
namespace Sys2Proof.Machine

/-! The answer. -/

/-- The response word of a cached result (R211, spec/30_encoding.md R108). -/
theorem respWord_resultCode (t : TState) : respWord (resultCode t) 0#8 = resultWord t := by
  cases t <;> decide

/-- An answered operation writes RESP and HPC and nothing else (R47, R51). -/
theorem finishHostOp_eq {c : Code} {d : Byte} {w : Word} (h : respWord c d = w) (s : State) :
    finishHostOp c d s = { s with resp := w, hpc := s.hpc + 1 } := by
  rw [← h]
  rfl

theorem rejectBusy_eq (s : State) : rejectBusy s = { s with resp := 0x80000004#32, hpc := s.hpc + 1 } :=
  finishHostOp_eq (respWord_resultCode .idle) s

theorem rejectArgument_eq (s : State) : rejectArgument s = { s with resp := 0x80000005#32, hpc := s.hpc + 1 } :=
  finishHostOp_eq (by decide) s

/-! The meaning of a host operation while busy. -/

/-- The busy test comes first in every operation but WAIT (R212). -/
theorem exec_of_busy {i : Instr} {s : State} (hop : i.isHostOp = true) (hwait : i ≠ .wait) (hb : s.tstate = .inProgress) :
    exec i s = .next (rejectBusy s) := by
  have hbusy : busy s = true := (busy_iff s).2 hb
  cases i
  case wrreg => exact if_pos hbusy
  case rdreg => exact if_pos hbusy
  case stb => exact if_pos hbusy
  case ldb => exact if_pos hbusy
  all_goals contradiction

theorem exec_wait_of_busy {s : State} (hb : s.tstate = .inProgress) : exec .wait s = .next { s with hwait := true } :=
  if_pos ((busy_iff s).2 hb)

/-! The meaning of a host operation while not busy. -/

theorem exec_wrreg_of_invalid (block ck : Bool) (dev : BitVec 7) (reg : Byte) {len : Byte} {s : State}
    (hb : s.tstate ≠ .inProgress) (hv : validLen .write len ≠ true) :
    exec (.wrreg block ck dev reg len) s = .next (rejectArgument s) := by
  simp [exec, execWrreg, hb, hv]

theorem exec_rdreg_of_invalid (ck : Bool) (dev : BitVec 7) (reg : Byte) {len : Byte} {s : State}
    (hb : s.tstate ≠ .inProgress) (hv : validLen .read len ≠ true) :
    exec (.rdreg ck dev reg len) s = .next (rejectArgument s) := by
  simp [exec, execRdreg, hb, hv]

theorem exec_wrreg_blocking (ck : Bool) (dev : BitVec 7) (reg : Byte) {len : Byte} {s : State}
    (hb : s.tstate ≠ .inProgress) (hv : validLen .write len = true) :
    exec (.wrreg true ck dev reg len) s = .next { arm .write dev reg len ck s with hwait := true } := by
  simp [exec, execWrreg, hb, hv]

theorem exec_wrreg_goingOn (ck : Bool) (dev : BitVec 7) (reg : Byte) {len : Byte} {s : State}
    (hb : s.tstate ≠ .inProgress) (hv : validLen .write len = true) :
    exec (.wrreg false ck dev reg len) s = .next (finishHostOp .inProgress 0#8 (arm .write dev reg len ck s)) := by
  simp [exec, execWrreg, hb, hv]

theorem exec_rdreg_of_valid (ck : Bool) (dev : BitVec 7) (reg : Byte) {len : Byte} {s : State}
    (hb : s.tstate ≠ .inProgress) (hv : validLen .read len = true) :
    exec (.rdreg ck dev reg len) s = .next { arm .read dev reg len ck s with hwait := true } := by
  simp [exec, execRdreg, hb, hv]

theorem exec_wait_of_not_busy {s : State} (hb : s.tstate ≠ .inProgress) :
    exec .wait s = .next (finishHostOp (resultCode s.tstate) 0#8 { s with sig := false }) :=
  if_neg (mt (busy_iff s).1 hb)

theorem exec_stb_of_not_busy (idx val : Byte) {s : State} (hb : s.tstate ≠ .inProgress) :
    exec (.stb idx val) s = .next (finishHostOp .ok 0#8 { s with buf := bufSet s.buf idx val }) :=
  if_neg (mt (busy_iff s).1 hb)

theorem exec_ldb_of_not_busy (idx : Byte) {s : State} (hb : s.tstate ≠ .inProgress) :
    exec (.ldb idx) s = .next (finishHostOp .ok (readBuf s idx) s) :=
  if_neg (mt (busy_iff s).1 hb)

/-! The statements. -/

/-- Settles O12: every operation but WAIT is rejected while busy. -/
theorem busyOperationIsRejected : Obligations.BusyOperationIsRejected := by
  unfold Obligations.BusyOperationIsRejected
  intro s hb
  rw [← rejectBusy_eq]
  exact ⟨fun _ _ _ _ _ => exec_of_busy rfl nofun hb, fun _ _ _ _ => exec_of_busy rfl nofun hb,
    fun _ _ => exec_of_busy rfl nofun hb, fun _ => exec_of_busy rfl nofun hb⟩

/-- Settles O13: the rejected ranges are the lengths that are not valid, and the busy test comes before the length. -/
theorem lengthOutOfRangeIsRejected : Obligations.LengthOutOfRangeIsRejected := by
  unfold Obligations.LengthOutOfRangeIsRejected
  refine ⟨fun s block ck dev reg len hb hlen => ?_, fun s ck dev reg len hb hlen => ?_, fun s block ck dev reg hb => ?_⟩
  · rw [← rejectArgument_eq]
    exact exec_wrreg_of_invalid block ck dev reg hb (by rw [ne_eq, validLen_write_iff]; omega)
  · rw [← rejectArgument_eq]
    exact exec_rdreg_of_invalid ck dev reg hb (by rw [ne_eq, validLen_read_iff]; omega)
  · rw [← rejectBusy_eq]
    exact ⟨exec_of_busy rfl nofun hb, exec_of_busy rfl nofun hb⟩

/-- Settles O16: WAIT answers from TSTATE, which it leaves, so a second WAIT answers from the same value. -/
theorem waitBlocksOrAnswersTheCachedResult : Obligations.WaitBlocksOrAnswersTheCachedResult := by
  unfold Obligations.WaitBlocksOrAnswersTheCachedResult
  refine ⟨fun s hb => exec_wait_of_busy hb, fun s hb => ?_, fun s t hb ht => ?_⟩
  · rw [exec_wait_of_not_busy hb, finishHostOp_eq (respWord_resultCode s.tstate)]
  · obtain rfl := Host.Outcome.next.inj ((exec_wait_of_not_busy hb).symm.trans ht)
    exact ⟨_, exec_wait_of_not_busy hb, rfl, rfl⟩

/-- Settles O17: the byte read after the store is the byte stored at IDX and the byte before it elsewhere; while busy STB is
rejected. -/
theorem stbStoresItsByte : Obligations.StbStoresItsByte := by
  unfold Obligations.StbStoresItsByte
  refine ⟨fun s idx val hb => ?_, fun s idx val hb => ?_⟩
  · refine ⟨bufSet s.buf idx val, ?_, bufGet_set_same _ _ _, fun a ha => bufGet_set_other _ _ _ _ ha⟩
    rw [exec_stb_of_not_busy idx val hb, finishHostOp_eq (c := .ok) (respWord_resultCode .completedOk)]
    rfl
  · rw [← rejectBusy_eq]
    exact exec_of_busy rfl nofun hb

end Sys2Proof.Machine
end

section
/-!
The arm step (spec/43_host_operations.md R214): every element it writes, and the two operations that take it (R215, R216).
-/
namespace Sys2Proof.Machine

/-- The prefill starts from an empty TXFIFO at the first byte of the stream. -/
theorem feedCount_beforePrefill {k : Kind} {dev : BitVec 7} {reg len : Byte} {ck : Bool} (s : State)
    (hv : validLen k len = true) :
    feedCount (beforePrefill k dev reg len ck s) = min s.params.txDepth (buildTxLen k len.toNat) := by
  have htxLen : (beforePrefill k dev reg len ck s).txLen.toNat = buildTxLen k len.toNat :=
    (arm_streamStart (dev := dev) (reg := reg) (ck := ck) s hv).txLen
  rw [feedCount, htxLen]
  rfl

/-- TXIDX counts the bytes of the prefill. -/
theorem arm_txIdx_toNat {k : Kind} {dev : BitVec 7} {reg len : Byte} {ck : Bool} (s : State) (hv : validLen k len = true) :
    (arm k dev reg len ck s).txIdx.toNat = min s.params.txDepth (buildTxLen k len.toNat) := by
  have hle : (beforePrefill k dev reg len ck s).txIdx ≤ (beforePrefill k dev reg len ck s).txLen := Nat.zero_le _
  rw [arm_txIdx, feedResult_snd_toNat hle, feedCount_beforePrefill s hv]
  exact Nat.zero_add _

theorem arm_cmd_getElem? {k : Kind} (dev : BitVec 7) (reg : Byte) {len : Byte} (ck : Bool) (s : State)
    (hv : validLen k len = true) (j : Nat) : (arm k dev reg len ck s).cmd[j]? =
      if j < buildSize k len.toNat then (buildWords k len.toNat ck)[j]? else s.cmd[j]? := by
  have hsize := buildSize_bounds hv
  have hcmd : (arm k dev reg len ck s).cmd = writeSlots s.cmd 0 (buildWords k len.toNat ck) := rfl
  rw [hcmd, writeSlots_getElem?, buildWords_length ck hv]
  by_cases hj : j < buildSize k len.toNat
  · rw [if_pos (by omega), if_pos hj, Nat.sub_zero]
  · rw [if_neg (by omega), if_neg hj]

/-- The arm step gives every element it writes its value and leaves the others (R214). -/
theorem armedBy_arm {k : Kind} (dev : BitVec 7) (reg : Byte) {len : Byte} (ck : Bool) (s : State)
    (hv : validLen k len = true) : ArmedBy k dev reg len ck s (arm k dev reg len ck s) := by
  obtain ⟨-, htxLen, -, htxFifo⟩ := arm_streamStart (dev := dev) (reg := reg) (ck := ck) s hv
  constructor
  case slots => exact fun j hj => (arm_cmd_getElem? dev reg ck s hv j).trans (if_pos hj)
  case slotsAbove => exact fun j hj => (arm_cmd_getElem? dev reg ck s hv j).trans (if_neg (by omega))
  case cmdLen =>
    have := buildSize_bounds hv
    exact (BitVec.toNat_ofNat _ _).trans (Nat.mod_eq_of_lt (by omega))
  case txLen => exact htxLen
  case txIdx => exact arm_txIdx_toNat s hv
  case txFifo => rw [htxFifo, streamBytes, arm_txIdx_toNat s hv, List.range_eq_range']
  all_goals rfl

/-- `ArmedBy` does not speak of HWAIT. -/
theorem ArmedBy.blocked {k : Kind} {dev : BitVec 7} {reg len : Byte} {ck : Bool} {s t : State}
    (h : ArmedBy k dev reg len ck s t) : ArmedBy k dev reg len ck s { t with hwait := true } := { h with }

/-- Nor does it speak of RESP and HPC. -/
theorem ArmedBy.finish {k : Kind} {dev : BitVec 7} {reg len : Byte} {ck : Bool} {s t : State}
    (h : ArmedBy k dev reg len ck s t) (c : Code) (d : Byte) : ArmedBy k dev reg len ck s (finishHostOp c d t) := { h with }

/-- Settles O14: BLOCK decides between the two next states, and both are armed. -/
theorem acceptedWrregArmsTheTransaction : Obligations.AcceptedWrregArmsTheTransaction := by
  unfold Obligations.AcceptedWrregArmsTheTransaction
  intro s block ck dev reg len hb hlow hhigh
  have hv : validLen .write len = true := (validLen_write_iff len).2 ⟨hlow, hhigh⟩
  have harmed := armedBy_arm dev reg ck s hv
  cases block
  case true => exact ⟨_, exec_wrreg_blocking ck dev reg hb hv, harmed.blocked, fun _ => ⟨rfl, rfl, rfl⟩, nofun⟩
  case false =>
    refine ⟨_, exec_wrreg_goingOn ck dev reg hb hv, harmed.finish _ _, nofun, fun _ => ⟨rfl, ?_, rfl⟩⟩
    exact respWord_resultCode .inProgress

/-- Settles O15: an accepted RDREG is the arm step with HWAIT set. -/
theorem acceptedRdregArmsTheTransaction : Obligations.AcceptedRdregArmsTheTransaction := by
  unfold Obligations.AcceptedRdregArmsTheTransaction
  intro s ck dev reg len hb hlow hhigh
  have hv : validLen .read len = true := (validLen_read_iff len).2 ⟨hlow, hhigh⟩
  exact ⟨_, exec_rdreg_of_valid ck dev reg hb hv, (armedBy_arm dev reg ck s hv).blocked, rfl, rfl, rfl⟩

end Sys2Proof.Machine
end

section
/-!
The frame of the host operations (spec/43_host_operations.md R232, spec/20_memory.md R79): what WRREG, RDREG, WAIT, STB and
LDB leave unchanged, once for each next state they have.
-/
namespace Sys2Proof.Machine

/-- The step from `s` to `t` started no transaction. -/
def StartsNone (s t : State) : Prop := t.tstate ≠ .inProgress ∨ s.tstate = .inProgress

/-- What the host operation i leaves unchanged. -/
structure HostFrame (i : Instr) (s t : State) : Prop where
  run         : SameRun s t
  trace       : t.trace = s.trace
  busOwn      : t.busOwn = s.busOwn
  bytes       : ∀ a : Byte, (∀ v, i ≠ .stb a v) → bufGet t.buf a = bufGet s.buf a
  transaction : StartsNone s t → SameTransaction s t
  signal      : StartsNone s t → i ≠ .wait → t.sig = s.sig ∧ t.hwait = s.hwait

theorem HostFrame.refl (i : Instr) (s : State) : HostFrame i s s where
  run := by constructor <;> rfl
  trace := rfl
  busOwn := rfl
  bytes := fun _ _ => rfl
  transaction := fun _ => by constructor <;> rfl
  signal := fun _ _ => ⟨rfl, rfl⟩

/-- The answer writes nothing that the frame names. -/
theorem HostFrame.finish {i : Instr} {s t : State} (h : HostFrame i s t) (c : Code) (d : Byte) :
    HostFrame i s (finishHostOp c d t) where
  run := { h.run with }
  trace := h.trace
  busOwn := h.busOwn
  bytes := h.bytes
  transaction := fun hnone => { h.transaction hnone with }
  signal := h.signal

/-- SIG and HWAIT are WAIT's to write. -/
theorem hostFrame_wait (sig hwait : Bool) (s : State) : HostFrame .wait s { s with sig := sig, hwait := hwait } where
  run := by constructor <;> rfl
  trace := rfl
  busOwn := rfl
  bytes := fun _ _ => rfl
  transaction := fun _ => by constructor <;> rfl
  signal := fun _ h => absurd rfl h

/-- A store reaches the byte at IDX only. -/
theorem hostFrame_stb (idx val : Byte) (s : State) : HostFrame (.stb idx val) s { s with buf := bufSet s.buf idx val } where
  run := by constructor <;> rfl
  trace := rfl
  busOwn := rfl
  bytes := fun a ha => bufGet_set_other _ _ _ _ fun h => ha val (by rw [h])
  transaction := fun _ => by constructor <;> rfl
  signal := fun _ _ => ⟨rfl, rfl⟩

theorem ArmedBy.not_startsNone {k : Kind} {dev : BitVec 7} {reg len : Byte} {ck : Bool} {s t : State}
    (h : ArmedBy k dev reg len ck s t) (hb : s.tstate ≠ .inProgress) : ¬ StartsNone s t :=
  not_or.2 ⟨not_not.2 h.tstate, hb⟩

/-- The operation that starts a transaction leaves the bus side and BUF. -/
theorem hostFrame_of_armedBy {i : Instr} {k : Kind} {dev : BitVec 7} {reg len : Byte} {ck : Bool} {s t : State}
    (hb : s.tstate ≠ .inProgress) (h : ArmedBy k dev reg len ck s t) : HostFrame i s t where
  run := ⟨h.params, h.prog, h.inputs, h.draws⟩
  trace := h.trace
  busOwn := h.busOwn
  bytes := fun _ _ => by rw [h.buf]
  transaction := fun hnone => absurd hnone (h.not_startsNone hb)
  signal := fun hnone => absurd hnone (h.not_startsNone hb)

/-- A host operation that is not busy has a next state that keeps its frame. -/
theorem exec_hostFrame_of_not_busy {i : Instr} {s : State} (hop : i.isHostOp = true) (hb : s.tstate ≠ .inProgress) :
    ∃ t, exec i s = .next t ∧ HostFrame i s t := by
  cases i
  case wrreg block ck dev reg len =>
    by_cases hv : validLen .write len = true
    · obtain ⟨hlow, hhigh⟩ := (validLen_write_iff len).1 hv
      obtain ⟨t, ht, harmed, -⟩ := acceptedWrregArmsTheTransaction s block ck dev reg len hb hlow hhigh
      exact ⟨t, ht, hostFrame_of_armedBy hb harmed⟩
    · exact ⟨_, exec_wrreg_of_invalid block ck dev reg hb hv, (HostFrame.refl _ s).finish ..⟩
  case rdreg ck dev reg len =>
    by_cases hv : validLen .read len = true
    · obtain ⟨hlow, hhigh⟩ := (validLen_read_iff len).1 hv
      obtain ⟨t, ht, harmed, -⟩ := acceptedRdregArmsTheTransaction s ck dev reg len hb hlow hhigh
      exact ⟨t, ht, hostFrame_of_armedBy hb harmed⟩
    · exact ⟨_, exec_rdreg_of_invalid ck dev reg hb hv, (HostFrame.refl _ s).finish ..⟩
  case wait => exact ⟨_, exec_wait_of_not_busy hb, (hostFrame_wait false s.hwait s).finish ..⟩
  case stb idx val => exact ⟨_, exec_stb_of_not_busy idx val hb, (hostFrame_stb idx val s).finish ..⟩
  case ldb idx => exact ⟨_, exec_ldb_of_not_busy idx hb, (HostFrame.refl _ s).finish ..⟩
  all_goals exact nomatch hop

/-- While busy WAIT blocks and every other operation is answered alone. -/
theorem exec_hostFrame {i : Instr} (hop : i.isHostOp = true) (s : State) : ∃ t, exec i s = .next t ∧ HostFrame i s t := by
  by_cases hb : s.tstate = .inProgress
  · by_cases hwait : i = .wait
    · subst hwait
      exact ⟨_, exec_wait_of_busy hb, hostFrame_wait s.sig true s⟩
    · exact ⟨_, exec_of_busy hop hwait hb, (HostFrame.refl i s).finish ..⟩
  · exact exec_hostFrame_of_not_busy hop hb

theorem hostFrame_of_exec {i : Instr} {s t : State} (hop : i.isHostOp = true) (h : exec i s = .next t) :
    HostFrame i s t := by
  obtain ⟨u, hu, hframe⟩ := exec_hostFrame hop s
  obtain rfl : u = t := Host.Outcome.next.inj (hu.symm.trans h)
  exact hframe

/-- Settles O20: each host operation's next state keeps its frame. -/
theorem hostOperationFrame : Obligations.HostOperationFrame := by
  unfold Obligations.HostOperationFrame
  refine ⟨fun i s t hop h => ?_, fun i s t hop h hnone => ?_⟩
  · obtain ⟨⟨hparams, hprog, hinputs, hdraws⟩, htrace, hbus, hbytes, -, -⟩ := hostFrame_of_exec hop h
    exact ⟨htrace, hbus, hparams, hprog, hinputs, hdraws, hbytes⟩
  · have hframe := hostFrame_of_exec hop h
    exact ⟨hframe.transaction hnone, hframe.signal hnone⟩

end Sys2Proof.Machine
end

section
/-!
The wake step (spec/43_host_operations.md R217): its next state, and that SIG is 1 in a run only where TSTATE is a Completed
value. That is kept by every step because no interrupt source is armed where SIG is 1, so the classifier has no step there.
-/
namespace Sys2Proof.Machine

theorem wake_eq (s : State) :
    wake s = { s with sig := false, hwait := false, resp := resultWord s.tstate, hpc := s.hpc + 1 } :=
  finishHostOp_eq (respWord_resultCode s.tstate) _

/-- Where SIG is 1 the transaction has ended and no interrupt source is armed. -/
def SignalEnded (s : State) : Prop := s.sig = true → completed s.tstate = true ∧ s.intEna = 0#6

theorem SignalEnded.of_sig_eq_false {s : State} (h : s.sig = false) : SignalEnded s :=
  fun hsig => nomatch h.symm.trans hsig

/-- HOST takes the signal, or leaves it and what it stands for. -/
theorem HostShape.signalEnded {s u : State} (h : HostShape s u) (hs : SignalEnded s) : SignalEnded u := by
  cases h
  case rejectBusy => exact hs
  case rejectArgument => exact hs
  case waitBlocks => exact hs
  case stb => exact hs
  case ldb => exact hs
  all_goals exact .of_sig_eq_false rfl

theorem SeqShape.signalEnded {s u : State} (h : SeqShape s u) (hs : SignalEnded s) : SignalEnded u := by
  have hside := h.sameHostSide
  rw [SignalEnded, hside.sig, hside.tstate, hside.intEna]
  exact hs

/-- The classifier gives the signal where it ends the transaction, and finds none given before. -/
theorem takeInterrupt_signalEnded {s : State} (hi : irqLine s = true) (hs : SignalEnded s) :
    SignalEnded (takeInterrupt s) := by
  obtain ⟨c, -, h⟩ | ⟨-, h⟩ | ⟨-, h⟩ := takeInterrupt_cases s <;> rw [h]
  · exact fun _ => ⟨completed_abortState c, rfl⟩
  · exact fun _ => ⟨rfl, rfl⟩
  · intro hsig
    obtain ⟨-, hena⟩ := hs ((service_sig _ s).symm.trans hsig)
    exact absurd (by rw [hena, BitVec.and_zero]) ((irqLine_iff s).1 hi)

theorem StepShape.signalEnded {s u : State} (hs : SignalEnded s) : StepShape s u → SignalEnded u
  | .host h => h.signalEnded hs
  | .irq hi => takeInterrupt_signalEnded hi hs
  | .seq h => h.signalEnded hs

theorem Reachable.signalEnded {p : Params} {prog : List Word} {s : State} (h : Reachable p prog s) : SignalEnded s := by
  induction h with
  | reset ins => exact .of_sig_eq_false rfl
  | step _ hstep ih =>
    obtain ⟨u, hu, rfl⟩ := step_shape hstep
    have hended : SignalEnded u := hu.signalEnded ih
    exact hended

theorem ne_of_completed {t : TState} (h : completed t = true) : t ≠ .idle ∧ t ≠ .inProgress := by
  constructor <;> rintro rfl <;> exact nomatch h

/-- Settles O19: the wake step asks for SIG alone, and no run gives SIG without a Completed value. -/
theorem wakeReturnsTheTerminalResult : Obligations.WakeReturnsTheTerminalResult := by
  unfold Obligations.WakeReturnsTheTerminalResult
  refine ⟨fun s hw hs => ⟨?_, ?_⟩, fun p prog s _ hreach _ hs => ?_, fun s hw hs => ?_⟩
  · simp [moveEnabled, hostEnabled, hw, hs]
  · rw [← wake_eq, takeMove, hostStep, if_pos hw]
  · exact ne_of_completed (hreach.signalEnded hs).1
  · simp [moveEnabled, hostEnabled, hw, hs]

end Sys2Proof.Machine
end

section
/-!
What taking an interrupt leaves (spec/60_exceptions.md R264, R267): the request and the response are kept as the signals' part
says, the run as the frame of a step says; HWAIT is HOST's alone.
-/
namespace Sys2Proof.Machine

theorem takeInterrupt_hwait (s : State) : (takeInterrupt s).hwait = s.hwait := by
  obtain ⟨c, -, h⟩ | ⟨-, h⟩ | ⟨-, h⟩ := takeInterrupt_cases s <;> rw [h]
  · exact abort_hwait c s
  · exact complete_hwait s
  · exact service_hwait (armedPending s) s

/-- Settles O35: every action of the classifier keeps the response, HWAIT, the request and the run. -/
theorem interruptSavesNothing : Obligations.InterruptSavesNothing := by
  unfold Obligations.InterruptSavesNothing
  intro s
  obtain ⟨hhpc, hresp⟩ := takeInterrupt_sameResponse s
  obtain ⟨hcmd, hcmdLen, hopr, htxLen⟩ := takeInterrupt_sameRequest s
  obtain ⟨hparams, hprog, hinputs, hdraws⟩ := takeInterrupt_sameRun s
  exact ⟨hhpc, takeInterrupt_hwait s, hresp, hcmd, hcmdLen, hopr, htxLen, hparams, hprog, hinputs, hdraws⟩

end Sys2Proof.Machine
end

section
/-!
Several controllers (spec/60_exceptions.md R270, spec/70_reset_and_hazards.md R294, R296). The dispatch table is a function of
the list of CTRL_INDEX alone; a step or an interrupt moves one controller, whose parameters stay, so it keeps that list, and
with it the table and its uniqueness. Construction adds one CTRL_INDEX that no controller had.
-/
namespace Sys2Proof.Machine

/-- The CTRL_INDEX of the controllers, in their order: what the dispatch table is made of (R270). -/
def ctrlIndices (p : Platform) : List Nat := p.units.map (fun s => s.params.ctrlIndex)

theorem Platform.wf_iff (p : Platform) : p.wf ↔ (ctrlIndices p).Nodup := Iff.rfl

theorem dispatchUnit_eq_findIdx? (p : Platform) (u : Nat) : dispatchUnit p u = (ctrlIndices p).findIdx? (· == u) := by
  rw [ctrlIndices, List.findIdx?_map]
  rfl

theorem getElem?_ctrlIndices {p : Platform} {k : Nat} {s : State} (h : p.units[k]? = some s) :
    (ctrlIndices p)[k]? = some s.params.ctrlIndex := by
  rw [ctrlIndices, List.getElem?_map, h, Option.map_some]

theorem ctrlIndices_withUnit {p : Platform} {k : Nat} {s t : State} (h : p.units[k]? = some s) (ht : t.params = s.params) :
    ctrlIndices (withUnit p k t) = ctrlIndices p := by
  obtain ⟨hk, hs⟩ := List.getElem?_eq_some_iff.1 (getElem?_ctrlIndices h)
  calc ctrlIndices (withUnit p k t) = (ctrlIndices p).set k t.params.ctrlIndex := List.map_set
    _ = (ctrlIndices p).set k (ctrlIndices p)[k] := by rw [ht, hs]
    _ = ctrlIndices p := List.set_getElem_self hk

/-! One controller moves. -/

/-- From `p` to `q` the controller at position k moved from `s` to `t`, and no other; every CTRL_INDEX is as it was. -/
structure OnlyMoves (p q : Platform) (k : Nat) (s t : State) : Prop where
  before  : p.units[k]? = some s
  after   : q.units[k]? = some t
  others  : ∀ j, j ≠ k → q.units[j]? = p.units[j]?
  indices : ctrlIndices q = ctrlIndices p

theorem onlyMoves_withUnit {p : Platform} {k : Nat} {s t : State} (h : p.units[k]? = some s) (ht : t.params = s.params) :
    OnlyMoves p (withUnit p k t) k s t :=
  ⟨h, withUnit_self t h, fun _ => withUnit_other p t, ctrlIndices_withUnit h ht⟩

theorem OnlyMoves.dispatchUnit_eq {p q : Platform} {k : Nat} {s t : State} (h : OnlyMoves p q k s t) (u : Nat) :
    dispatchUnit q u = dispatchUnit p u := by
  rw [dispatchUnit_eq_findIdx?, h.indices, dispatchUnit_eq_findIdx?]

theorem OnlyMoves.wf {p q : Platform} {k : Nat} {s t : State} (h : OnlyMoves p q k s t) (hp : p.wf) : q.wf := by
  rw [Platform.wf_iff, h.indices]
  exact hp

theorem platformStep_onlyMoves {p q : Platform} {k : Nat} (h : platformStep p k = some (.next q)) :
    ∃ s t, step s = .next t ∧ OnlyMoves p q k s t := by
  obtain ⟨s, t, hs, hstep, rfl⟩ := platformStep_cases h
  obtain ⟨hparams, -⟩ := everyStepFrame s t hstep
  exact ⟨s, t, hstep, onlyMoves_withUnit hs hparams⟩

theorem platformInterrupt_onlyMoves {p q : Platform} {u : Nat} (h : platformInterrupt p u = some q) :
    ∃ k s, dispatchUnit p u = some k ∧ irqLine s = true ∧ OnlyMoves p q k s (consumeInput (takeInterrupt s)) := by
  obtain ⟨k, s, hk, hs, hi, rfl⟩ := platformInterrupt_cases h
  exact ⟨k, s, hk, hi, onlyMoves_withUnit hs (takeInterrupt_sameRun s).params⟩

/-! Construction. -/

theorem construct_eq_none_iff (q : Params) (prog : List Word) (ins : List Input) (p : Platform) :
    construct q prog ins p = none ↔ ∃ s ∈ p.units, s.params.ctrlIndex = q.ctrlIndex := by
  have howned : dispatchUnit p q.ctrlIndex ≠ none ↔ ∃ s ∈ p.units, s.params.ctrlIndex = q.ctrlIndex := by
    simp only [ne_eq, dispatchUnit_none, not_forall, not_not, exists_prop]
  rw [← howned, construct]
  cases dispatchUnit p q.ctrlIndex <;> simp

/-- The table leads to an added controller where no other has its CTRL_INDEX. -/
theorem dispatchUnit_append_freshUnit {q : Params} {p : Platform} (prog : List Word) (ins : List Input)
    (h : dispatchUnit p q.ctrlIndex = none) :
    dispatchUnit ⟨p.units ++ [freshUnit q prog ins]⟩ q.ctrlIndex = some p.units.length := by
  rw [dispatchUnit] at h ⊢
  simp [List.findIdx?_append, h]

theorem construct_wf {q : Params} {prog : List Word} {ins : List Input} {p r : Platform} (hp : p.wf)
    (h : construct q prog ins p = some r) : r.wf := by
  obtain ⟨hfree, rfl⟩ := construct_cases h
  have hnew : q.ctrlIndex ∉ ctrlIndices p := by
    simpa [ctrlIndices] using dispatchUnit_none.1 hfree
  have hadded : ctrlIndices ⟨p.units ++ [freshUnit q prog ins]⟩ = (ctrlIndices p).concat q.ctrlIndex := by
    simp [ctrlIndices]
  rw [Platform.wf_iff, hadded]
  exact hp.concat hnew

/-! The table of distinct CTRL_INDEX. -/

/-- With distinct CTRL_INDEX a controller is the entry of its own unit: the entry is some controller with that CTRL_INDEX,
and there is one only. -/
theorem Platform.wf.dispatchUnit_ctrlIndex {p : Platform} (hp : p.wf) {k : Nat} {s : State} (h : p.units[k]? = some s) :
    dispatchUnit p s.params.ctrlIndex = some k := by
  cases hd : dispatchUnit p s.params.ctrlIndex with
  | none => exact absurd rfl (dispatchUnit_none.1 hd s (List.mem_of_getElem? h))
  | some j =>
    obtain ⟨s', hs', heq⟩ := dispatchUnit_some hd
    have hj := getElem?_ctrlIndices hs'
    have hk := getElem?_ctrlIndices h
    have hlt : j < (ctrlIndices p).length := (List.getElem?_eq_some_iff.1 hj).1
    have hjk : j = k := (List.getElem?_inj hlt hp).1 (hj.trans (heq ▸ hk.symm))
    rw [hjk]

theorem Platform.wf.dispatchUnit_eq_some_iff {p : Platform} (hp : p.wf) (k u : Nat) :
    dispatchUnit p u = some k ↔ ∃ s, p.units[k]? = some s ∧ s.params.ctrlIndex = u := by
  constructor
  · exact dispatchUnit_some
  · rintro ⟨s, hs, rfl⟩
    exact hp.dispatchUnit_ctrlIndex hs

/-- The interrupt of a unit whose entry requests one is taken by that entry. -/
theorem platformInterrupt_eq_some {p : Platform} {u k : Nat} {s : State} (hd : dispatchUnit p u = some k)
    (hs : p.units[k]? = some s) (hi : irqLine s = true) :
    platformInterrupt p u = some (withUnit p k (consumeInput (takeInterrupt s))) := by
  simp only [platformInterrupt, hd, hs, hi, if_true]

/-- Settles O59: `OnlyMoves` holds of a step and of an interrupt, and the table depends on the CTRL_INDEX alone. -/
theorem controllersShareNothing : Obligations.ControllersShareNothing := by
  unfold Obligations.ControllersShareNothing
  refine ⟨fun p q k h => ?_, fun p q u h => ?_, fun q prog ins p => ⟨construct_eq_none_iff q prog ins p, fun r h => ?_⟩⟩
  · obtain ⟨s, t, hstep, hm⟩ := platformStep_onlyMoves h
    exact ⟨⟨s, t, hm.before, hstep, hm.after⟩, hm.others, hm.dispatchUnit_eq⟩
  · obtain ⟨k, s, hk, hi, hm⟩ := platformInterrupt_onlyMoves h
    obtain ⟨s', hs', hu⟩ := dispatchUnit_some hk
    obtain rfl : s = s' := Option.some.inj (hm.before.symm.trans hs')
    exact ⟨k, s, hk, hm.before, hu, hi, hm.after, hm.others, hm.dispatchUnit_eq⟩
  · obtain ⟨hfree, rfl⟩ := construct_cases h
    exact ⟨rfl, dispatchUnit_append_freshUnit prog ins hfree⟩

/-- Settles O60: every operation keeps the CTRL_INDEX distinct, and then the table leads a unit to its one owner. -/
theorem controllersOwnTheirUnits : Obligations.ControllersOwnTheirUnits := by
  unfold Obligations.ControllersOwnTheirUnits
  refine ⟨List.nodup_nil, fun _ _ _ _ _ => construct_wf, fun p q k hp h => ?_, fun p q u hp h => ?_,
    fun _ k u hp => hp.dispatchUnit_eq_some_iff k u, fun p k s hp hs hi => ?_⟩
  · obtain ⟨s, t, -, hm⟩ := platformStep_onlyMoves h
    exact hm.wf hp
  · obtain ⟨k, s, -, -, hm⟩ := platformInterrupt_onlyMoves h
    exact hm.wf hp
  · exact ⟨_, platformInterrupt_eq_some (hp.dispatchUnit_ctrlIndex hs) hs hi, withUnit_self _ hs⟩

end Sys2Proof.Machine
end

section
/-!
The pending bits as the invariant reads them (spec/30_encoding.md R112, spec/00_scope.md R16): what is pending after an event
is raised on a condition.
-/
namespace Sys2Proof.Machine

theorem pending_iff_getLsbD (e : Event) (s : State) : Pending e s ↔ s.intPend.getLsbD (eventBit e) = true := by
  have hbit : ∀ p : BitVec 6, p &&& eventMask e ≠ 0#6 ↔ p.getLsbD (eventBit e) = true := by cases e <;> decide
  exact hbit _

/-! No event of one kind pending. -/

/-- One of the four terminal events (spec/00_scope.md R16). -/
abbrev Event.isTerminal (e : Event) : Prop := eventMask e &&& terminalEvents = eventMask e

theorem not_pending_of_noTerminal {s : State} {e : Event} (he : e.isTerminal) (hno : terminalPending s = 0#6) :
    ¬ Pending e s := by
  rw [Pending, not_not, ← he, BitVec.and_comm (eventMask e), ← BitVec.and_assoc, ← terminalPending, hno, BitVec.zero_and]

theorem not_pending_of_intPend_eq_zero {s : State} (h : s.intPend = 0#6) (e : Event) : ¬ Pending e s := by
  rw [Pending, h, BitVec.zero_and, not_not]

/-! An event raised. -/

/-- An event raised on the condition c. -/
def Raised (c : Prop) [Decidable c] (e : Event) (s u : State) : Prop :=
  u.intPend = if c then s.intPend ||| eventMask e else s.intPend

section
variable {c : Prop} [Decidable c] {e : Event} {s u : State}

/-- What is pending then: the event raised, where c holds, and what was pending before. -/
theorem Raised.pending_iff (h : Raised c e s u) (e' : Event) : Pending e' u ↔ (c ∧ e' = e) ∨ Pending e' s := by
  rw [pending_iff_getLsbD, pending_iff_getLsbD, h]
  by_cases hc : c
  · rw [if_pos hc]
    by_cases he : e' = e
    · have hset : (eventMask e).getLsbD (eventBit e) = true := by cases e <;> rfl
      simp [he, hc, hset]
    · have hbit : eventBit e' ≠ eventBit e := by
        revert he
        cases e <;> cases e' <;> decide
      simp [getLsbD_or_eventMask hbit, he]
  · simp [hc]

/-- Raising an event takes none away. -/
theorem Raised.pending (h : Raised c e s u) {e' : Event} (hp : Pending e' s) : Pending e' u :=
  (h.pending_iff e').2 (.inr hp)

/-- Where no terminal event was pending, the one raised is the only one, -/
theorem Raised.terminalPending_eq (h : Raised c e s u) (hno : terminalPending s = 0#6) :
    terminalPending u = if c then eventMask e &&& terminalEvents else 0#6 := by
  rw [terminalPending, h]
  split
  · rw [BitVec.and_or_distrib_right, ← terminalPending, hno, BitVec.zero_or]
  · exact hno

/-- and every other one stays away. -/
theorem Raised.not_pending (h : Raised c e s u) (hno : terminalPending s = 0#6) {e' : Event} (he : e'.isTerminal)
    (hne : e' ≠ e) : ¬ Pending e' u := by
  rw [h.pending_iff]
  exact not_or.2 ⟨fun hraised => hne hraised.2, not_pending_of_noTerminal he hno⟩

end

/-! The two operations of SEQ that raise a terminal event. -/

theorem raised_haltWith (e : Event) (s : State) : Raised True e s (haltWith e s) := rfl

theorem raised_advance (s : State) : Raised (s.cmdPtr + 1#6 = s.cmdLen) .done s (advance s) := advance_intPend s

end Sys2Proof.Machine
end

section
/-!
Reading the invariant (spec/70_reset_and_hazards.md R291): its part on the modes in a transaction and outside one, where the
slots of the request stand, and that a halted SEQ has a terminal event pending.
-/
namespace Sys2Proof.Machine

/-! How TSTATE, the interrupt registers, SEQ_RUN, SIG and HWAIT go together. -/

/-- In a transaction every source is armed and the signal is not given. -/
theorem modeInv_iff_of_inProgress {s : State} (hb : s.tstate = .inProgress) :
    ModeInv s ↔ s.intEna = allEvents ∧ s.sig = false ∧ (s.hwait = true → s.hpc < s.prog.length) := by
  simp [ModeInv, hb, completed]

/-- Outside a transaction the bus side is at rest, and HOST waits for a signal that is given. -/
theorem modeInv_iff_of_not_inProgress {s : State} (hb : s.tstate ≠ .inProgress) :
    ModeInv s ↔
      (s.intEna = 0#6 ∧ s.intPend = 0#6 ∧ s.seqRun = false ∧ s.txFifo = [] ∧ s.rxFifo = [] ∧ s.busOwn = false) ∧
      (s.hwait = true → s.sig = true ∧ s.hpc < s.prog.length) ∧ (s.sig = true → completed s.tstate = true) := by
  constructor
  · rintro ⟨-, hidle, -, hblocked, hsig, hwait⟩
    have hgiven : s.hwait = true → s.sig = true := fun hw =>
      by_contra fun hs => hb (hblocked ⟨hw, eq_false_of_ne_true hs⟩)
    exact ⟨hidle hb, fun hw => ⟨hgiven hw, hwait hw⟩, hsig⟩
  · rintro ⟨⟨hena, hpend, hrun, hfree⟩, hwait, hsig⟩
    refine ⟨fun hr => ?_, fun _ => ⟨hena, hpend, hrun, hfree⟩, fun h => absurd h hb, fun ⟨hw, hs⟩ => ?_, hsig,
      fun hw => (hwait hw).2⟩
    · exact nomatch hr.symm.trans hrun
    · exact nomatch hs.symm.trans (hwait hw).1

/-- What neither SEQ nor a service writes is all that counts of the mode while a transaction is in progress. -/
theorem SameHostSide.modeInv {s u : State} (h : SameHostSide s u) (hb : s.tstate = .inProgress) (hm : ModeInv s) :
    ModeInv u := by
  rw [modeInv_iff_of_inProgress hb] at hm
  rw [modeInv_iff_of_inProgress (h.tstate.trans hb), h.intEna, h.sig, h.hwait, h.hpc, h.prog]
  exact hm

/-! The request, and where its slots are. -/

theorem SameRequest.builtInv {s u : State} (h : SameRequest s u) (hb : BuiltInv s) : BuiltInv u := by
  simpa only [BuiltInv, h.cmd, h.cmdLen, h.opr, h.txLen] using hb

theorem SameRequest.slotsOf_eq {s u : State} (h : SameRequest s u) : slotsOf u = slotsOf s := by
  rw [slotsOf, h.opr, slotsOf]

/-- A slot of the built sequence is below CMDLEN. -/
theorem lt_cmdLen_of_slot {s : State} {i : Instr} (hb : BuiltInv s) (h : (slotsOf s)[s.cmdPtr.toNat]? = some i) :
    s.cmdPtr < s.cmdLen := by
  obtain ⟨hlt, -⟩ := List.getElem?_eq_some_iff.1 h
  rwa [slotsOf, buildSlots_length _ hb.1, ← cmdLen_toNat hb] at hlt

/-- CMDPTR does not wrap below CMDLEN. -/
theorem toNat_succ_of_lt {p n : BitVec 6} (h : p < n) : (p + 1#6).toNat = p.toNat + 1 := by
  have hlt : p.toNat < n.toNat := h
  have := n.isLt
  rw [BitVec.toNat_add, BitVec.toNat_ofNat]
  omega

/-- STOP is the last slot, and no other command is. -/
theorem last_slot_iff {s : State} {i : Instr} (hb : BuiltInv s) (h : (slotsOf s)[s.cmdPtr.toNat]? = some i) :
    s.cmdPtr + 1#6 = s.cmdLen ↔ i = .stop := by
  have hstop := buildSlots_stop_iff s.opr.checkAck hb.1 s.cmdPtr.toNat
  rw [← slotsOf, h, Option.some.injEq] at hstop
  rw [hstop, BitVec.toNat_eq, toNat_succ_of_lt (lt_cmdLen_of_slot hb h), cmdLen_toNat hb]

theorem succ_lt_cmdLen_iff {s : State} {i : Instr} (hb : BuiltInv s) (h : (slotsOf s)[s.cmdPtr.toNat]? = some i) :
    s.cmdPtr + 1#6 < s.cmdLen ↔ i ≠ .stop := by
  have hlt : s.cmdPtr.toNat < s.cmdLen.toNat := lt_cmdLen_of_slot hb h
  rw [ne_eq, ← last_slot_iff hb h, BitVec.toNat_eq, BitVec.lt_def, toNat_succ_of_lt hlt]
  omega

/-- A WRITE or a READ is not the first slot, which is START. -/
theorem pos_of_byte_slot {s : State} {i : Instr} (hb : BuiltInv s) (h : (slotsOf s)[s.cmdPtr.toNat]? = some i)
    (hi : i.isWrite = true ∨ i.isRead = true) : 0#6 < s.cmdPtr :=
  ((slot_pos hb.1 h).2.1 hi).1

/-! SEQ runs, or a terminal event is pending (R153). -/

theorem Inv.noTerminal_of_seqRun {s : State} (hI : Inv s) (hr : s.seqRun = true) : terminalPending s = 0#6 := by
  obtain ⟨-, -, ⟨hrunning, -⟩, -⟩ := hI.transaction (hI.inProgress_of_seqRun hr)
  exact (hrunning hr).1

theorem Inv.cmdPtr_lt_of_seqRun {s : State} (hI : Inv s) (hr : s.seqRun = true) : s.cmdPtr < s.cmdLen := by
  obtain ⟨-, -, ⟨hrunning, -⟩, -⟩ := hI.transaction (hI.inProgress_of_seqRun hr)
  exact (hrunning hr).2

/-- A halted SEQ leaves a terminal event pending until the classifier ends the transaction. -/
theorem Inv.seqRun_of_noTerminal {s : State} (hI : Inv s) (hb : s.tstate = .inProgress) (hno : terminalPending s = 0#6) :
    s.seqRun = true := by
  obtain ⟨-, -, ⟨-, hhalted, -⟩, -⟩ := hI.transaction hb
  by_contra hr
  have hevent := hhalted (eq_false_of_ne_true hr)
  rw [hno] at hevent
  rcases hevent with h | h | h | h <;> exact absurd h (by decide)

/-- Where neither FIFO nor TXIDX moves, the refill events that were due stay pending. -/
theorem refillInv_of_pending {s u : State} (h : RefillInv s) (htx : u.txFifo = s.txFifo) (hidx : u.txIdx = s.txIdx)
    (hlen : u.txLen = s.txLen) (hrx : u.rxFifo = s.rxFifo) (hpar : u.params = s.params)
    (hp : ∀ e, Pending e s → Pending e u) : RefillInv u := by
  rw [RefillInv, htx, hidx, hlen, hrx, hpar]
  exact ⟨fun hempty => hp _ (h.1 hempty), fun hfull => hp _ (h.2 hfull)⟩

end Sys2Proof.Machine
end

section
/-!
SEQ keeps the invariant (spec/70_reset_and_hazards.md R291). A normal step is seen in two halves: the slot is served, and its
byte is moved and not yet counted; then SEQ advances, or halts on a missing acknowledgment.
-/
namespace Sys2Proof.Machine

/-- SEQ has executed the slot i at CMDPTR and has neither advanced nor halted. -/
structure Served (i : Instr) (r : State) : Prop where
  running    : r.seqRun = true
  built      : BuiltInv r
  slot       : (slotsOf r)[r.cmdPtr.toNat]? = some i
  noTerminal : terminalPending r = 0#6
  pushed     : r.txIdx.toNat = r.txFifo.length + writesDone r + (if i.isWrite = true then 1 else 0)
  received   : r.rxIdx.toNat + r.rxFifo.length = readsDone r + (if i.isRead = true then 1 else 0)
  busOwn     : r.busOwn = decide (i ≠ .stop)
  refill     : RefillInv r

/-! The advance. -/

section
variable {i : Instr} {r : State}

theorem advance_sameRequest (s : State) : SameRequest s (advance s) := by constructor <;> simp

theorem Served.advance_cmdPtr_toNat (h : Served i r) : (advance r).cmdPtr.toNat = r.cmdPtr.toNat + 1 := by
  rw [advance_cmdPtr, toNat_succ_of_lt (lt_cmdLen_of_slot h.built h.slot)]

/-- The byte moved is counted, and the bus is free again behind STOP. -/
theorem Served.progressInv_advance (h : Served i r) : ProgressInv (advance r) := by
  have hptr := h.advance_cmdPtr_toNat
  have hslots := (advance_sameRequest r).slotsOf_eq
  have hdone := countDone_succ h.slot
  have hack : ¬ Pending .ackErr (advance r) := (raised_advance r).not_pending h.noTerminal rfl (by decide)
  refine ⟨?_, ?_, ?_⟩
  · rw [if_neg hack, writesDone, hslots, hptr, hdone, advance_txIdx, advance_txFifo, h.pushed, writesDone]
    omega
  · rw [readsDone, hslots, hptr, hdone, advance_rxIdx, advance_rxFifo, h.received, readsDone]
  · have hpos : 0#6 < (advance r).cmdPtr := by
      rw [BitVec.lt_def, hptr]
      exact Nat.succ_pos _
    have hnext : (advance r).cmdPtr < (advance r).cmdLen ↔ i ≠ .stop := by
      rw [advance_cmdPtr, advance_cmdLen]
      exact succ_lt_cmdLen_iff h.built h.slot
    rw [advance_busOwn, h.busOwn]
    simp only [hpos, true_and, hnext]

/-- SEQ runs on below CMDLEN, or halts there with DONE. -/
theorem Served.eventInv_advance (h : Served i r) : EventInv (advance r) := by
  have hraise := raised_advance r
  have hterminal := hraise.terminalPending_eq h.noTerminal
  have hack : ¬ Pending .ackErr (advance r) := hraise.not_pending h.noTerminal rfl (by decide)
  rw [EventInv, hraise.pending_iff, advance_seqRun, advance_cmdPtr, advance_cmdLen, hterminal]
  by_cases hend : r.cmdPtr + 1#6 = r.cmdLen
  · rw [if_pos hend, if_pos hend]
    exact ⟨nofun, fun _ => .inr (.inr (.inl rfl)), iff_of_true (.inl ⟨hend, rfl⟩) hend, fun hp => absurd hp hack⟩
  · have hlt := (succ_lt_cmdLen_iff h.built h.slot).2 (mt (last_slot_iff h.built h.slot).2 hend)
    rw [if_neg hend, if_neg hend, h.running]
    refine ⟨fun _ => ⟨rfl, hlt⟩, nofun, iff_of_false ?_ hend, fun hp => absurd hp hack⟩
    exact not_or.2 ⟨fun hdone => hend hdone.1, not_pending_of_noTerminal rfl h.noTerminal⟩

/-- The advance to the next slot, or past the last one (R152). -/
theorem Served.advance (h : Served i r) : TransactionInv (advance r) where
  built := (advance_sameRequest r).builtInv h.built
  progress := h.progressInv_advance
  events := h.eventInv_advance
  refill := refillInv_of_pending h.refill (advance_txFifo r) (advance_txIdx r) (advance_txLen r) (advance_rxFifo r)
    (advance_params r) fun _ => (raised_advance r).pending

end

/-! The halts. -/

/-- A halt raises one terminal event, and not DONE. -/
theorem eventInv_haltWith {e : Event} {r : State} (he : e.isTerminal) (hdone : e ≠ .done) (hno : terminalPending r = 0#6)
    (hlt : r.cmdPtr < r.cmdLen) (hack : e = .ackErr → ((slotsOf r)[r.cmdPtr.toNat]?).any Instr.isWrite = true) :
    EventInv (haltWith e r) := by
  have hraise := raised_haltWith e r
  have hterminal : terminalPending (haltWith e r) = eventMask e :=
    (hraise.terminalPending_eq hno).trans ((if_pos trivial).trans he)
  refine ⟨nofun, fun _ => ?_, ?_, fun hp => hack ?_⟩
  · rw [hterminal]
    cases e
    case txe => exact absurd he (by decide)
    case rxf => exact absurd he (by decide)
    all_goals simp
  · have hnot : ¬ Pending .done (haltWith e r) := hraise.not_pending hno rfl hdone.symm
    exact iff_of_false hnot fun hend => BitVec.lt_irrefl _ (hend ▸ hlt)
  · obtain ⟨-, rfl⟩ | hp := (hraise.pending_iff _).1 hp
    · rfl
    · exact absurd hp (not_pending_of_noTerminal rfl hno)

/-- The halt of a WRITE on a missing acknowledgment: TXIDX stays ahead by the byte that was sent and not counted (R158). -/
theorem Served.haltWith_ackErr {c : Bool} {r : State} (h : Served (.write c) r) : TransactionInv (haltWith .ackErr r) := by
  obtain ⟨-, hbuilt, hslot, hno, hpushed, hreceived, hbus, hrefill⟩ := h
  have hraise := raised_haltWith .ackErr r
  have hlt := lt_cmdLen_of_slot hbuilt hslot
  have hpos := pos_of_byte_slot hbuilt hslot (.inl rfl)
  constructor
  case built => exact hbuilt
  case progress =>
    refine ⟨?_, hreceived, ?_⟩
    · rw [if_pos ((hraise.pending_iff _).2 (.inl ⟨trivial, rfl⟩))]
      exact hpushed
    · simpa [hpos, hlt] using hbus
  case events => exact eventInv_haltWith rfl (by decide) hno hlt fun _ => by rw [hslot]; rfl
  case refill => exact refillInv_of_pending hrefill rfl rfl rfl rfl rfl fun _ => hraise.pending

/-- The hang and the arbitration loss halt SEQ and move no byte (R164, R165). -/
theorem Inv.transactionInv_haltWith {s : State} {e : Event} (hI : Inv s) (hr : s.seqRun = true) (he : e.isTerminal)
    (hdone : e ≠ .done) (hack : e ≠ .ackErr) (x : BusEvent) : TransactionInv (haltWith e (emit x s)) := by
  obtain ⟨hbuilt, ⟨-, hreceived, hbus⟩, -, hrefill⟩ := hI.transaction (hI.inProgress_of_seqRun hr)
  have hno := hI.noTerminal_of_seqRun hr
  have hlt := hI.cmdPtr_lt_of_seqRun hr
  have hraise : Raised True e s (haltWith e (emit x s)) := rfl
  have hnot : ¬ Pending .ackErr (haltWith e (emit x s)) := hraise.not_pending hno rfl hack.symm
  constructor
  case built => exact hbuilt
  case progress =>
    refine ⟨?_, hreceived, hbus⟩
    rw [if_neg hnot]
    exact hI.txIdx_eq hr
  case events => exact eventInv_haltWith (r := emit x s) he hdone hno hlt fun e => absurd e hack
  case refill => exact refillInv_of_pending hrefill rfl rfl rfl rfl rfl fun _ => hraise.pending

/-! The four slot commands, up to the advance. -/

/-- The slot command SEQ executes is that of the built sequence. -/
theorem Inv.slot_eq {s : State} {i : Instr} (hI : Inv s) (hr : s.seqRun = true) (hc : currentSlot s = some i) :
    (slotsOf s)[s.cmdPtr.toNat]? = some i := by
  obtain ⟨j, hj, hslot⟩ := hI.slot_of_seqRun hr
  rw [hslot, ← hj, hc]

/-- START and STOP move no byte. -/
theorem Inv.served_bare {s : State} {i : Instr} (hI : Inv s) (hr : s.seqRun = true) (hc : currentSlot s = some i)
    (hw : i.isWrite = false) (hrd : i.isRead = false) (x : BusEvent) :
    Served i { emit x s with busOwn := decide (i ≠ .stop) } := by
  obtain ⟨hbuilt, ⟨-, hreceived, -⟩, -, hrefill⟩ := hI.transaction (hI.inProgress_of_seqRun hr)
  constructor
  case running => exact hr
  case built => exact hbuilt
  case slot => exact hI.slot_eq hr hc
  case noTerminal => exact hI.noTerminal_of_seqRun hr
  case pushed => rw [hw]; exact hI.txIdx_eq hr
  case received => rw [hrd]; exact hreceived
  case busOwn => rfl
  case refill => exact hrefill

/-- Between the first slot and the last the bus is held. -/
theorem Inv.busOwn_of_byte_slot {s : State} {i : Instr} (hI : Inv s) (hr : s.seqRun = true) (hc : currentSlot s = some i)
    (hi : i.isWrite = true ∨ i.isRead = true) : s.busOwn = true := by
  obtain ⟨hbuilt, ⟨-, -, hbus⟩, -, -⟩ := hI.transaction (hI.inProgress_of_seqRun hr)
  rw [hbus, decide_eq_true ⟨pos_of_byte_slot hbuilt (hI.slot_eq hr hc) hi, hI.cmdPtr_lt_of_seqRun hr⟩]

/-- WRITE up to its answer: the byte b is popped and sent (R158). -/
def popByte (b : Byte) (rest : List Byte) (s : State) : State :=
  { s with
    txFifo := rest
    intPend := if rest = [] then s.intPend ||| eventMask .txe else s.intPend
    trace := s.trace ++ [.written b (currentInput s).ack] }

theorem transmit_eq_popByte (ackCheck : Bool) (b : Byte) (rest : List Byte) (s : State) : transmit ackCheck b rest s =
    if (currentInput s).ack = .nack ∧ ackCheck = true then haltWith .ackErr (popByte b rest s)
    else advance (popByte b rest s) := by
  by_cases hlast : rest = [] <;> simp only [transmit, popByte, hlast, if_true, if_false] <;> rfl

/-- READ up to the advance: the byte b is received (R160). -/
def pushByte (ackVal : Bool) (b : Byte) (s : State) : State :=
  { s with
    rxFifo := s.rxFifo ++ [b]
    intPend := if s.rxFifo.length + 1 = s.params.rxDepth then s.intPend ||| eventMask .rxf else s.intPend
    trace := s.trace ++ [.received b (masterAck ackVal)] }

theorem receive_eq_pushByte (ackVal : Bool) (b : Byte) (s : State) :
    receive ackVal b s = advance (pushByte ackVal b s) := by
  by_cases hfull : s.rxFifo.length + 1 = s.params.rxDepth <;> simp [receive, pushByte, hfull, rxfLevel, raiseEvent, emit]

/-- The byte popped is no longer in TXFIFO and not yet counted; TXE is raised where it was the last. -/
theorem Inv.served_write {s : State} {c : Bool} {b : Byte} {rest : List Byte} (hI : Inv s) (hr : s.seqRun = true)
    (hc : currentSlot s = some (.write c)) (hq : s.txFifo = b :: rest) : Served (.write c) (popByte b rest s) := by
  obtain ⟨hbuilt, ⟨-, hreceived, -⟩, -, hrefill⟩ := hI.transaction (hI.inProgress_of_seqRun hr)
  have hraise : Raised (rest = []) .txe s (popByte b rest s) := rfl
  constructor
  case running => exact hr
  case built => exact hbuilt
  case slot => exact hI.slot_eq hr hc
  case noTerminal => exact (hraise.terminalPending_eq (hI.noTerminal_of_seqRun hr)).trans (ite_self _)
  case pushed =>
    have hidx := hI.txIdx_eq hr
    rw [hq, List.length_cons, Nat.add_right_comm] at hidx
    exact hidx
  case received => exact hreceived
  case busOwn => exact hI.busOwn_of_byte_slot hr hc (.inl rfl)
  case refill => exact ⟨fun h => (hraise.pending_iff _).2 (.inl ⟨h.1, rfl⟩), fun h => hraise.pending (hrefill.2 h)⟩

/-- The byte received is in RXFIFO and not yet counted; RXF is raised where it filled RXFIFO. -/
theorem Inv.served_read {s : State} {v : Bool} (hI : Inv s) (hr : s.seqRun = true)
    (hc : currentSlot s = some (.read v)) (b : Byte) : Served (.read v) (pushByte v b s) := by
  obtain ⟨hbuilt, ⟨-, hreceived, -⟩, -, hrefill⟩ := hI.transaction (hI.inProgress_of_seqRun hr)
  have hraise : Raised (s.rxFifo.length + 1 = s.params.rxDepth) .rxf s (pushByte v b s) := rfl
  have hlen : (pushByte v b s).rxFifo.length = s.rxFifo.length + 1 := List.length_append
  constructor
  case running => exact hr
  case built => exact hbuilt
  case slot => exact hI.slot_eq hr hc
  case noTerminal => exact (hraise.terminalPending_eq (hI.noTerminal_of_seqRun hr)).trans (ite_self _)
  case pushed => exact hI.txIdx_eq hr
  case received => rw [hlen, ← Nat.add_assoc]; exact congrArg (· + 1) hreceived
  case busOwn => exact hI.busOwn_of_byte_slot hr hc (.inr rfl)
  case refill =>
    rw [RefillInv, hlen]
    exact ⟨fun h => hraise.pending (hrefill.1 h), fun h => (hraise.pending_iff _).2 (.inl ⟨h, rfl⟩)⟩

/-! Every step of SEQ. -/

/-- Every step of SEQ keeps what holds of a transaction in progress. -/
theorem SeqShape.transactionInv {s u : State} (hI : Inv s) (h : SeqShape s u) : TransactionInv u := by
  cases h
  case start hr hc => exact (hI.served_bare hr hc rfl rfl _).advance
  case stop hr hc => exact (hI.served_bare hr hc rfl rfl _).advance
  case read hr hc hq => rw [receive_eq_pushByte]; exact (hI.served_read hr hc _).advance
  case write hr hc hq =>
    have hserved := hI.served_write hr hc hq
    rw [transmit_eq_popByte]
    split
    · exact hserved.haltWith_ackErr
    · exact hserved.advance
  case arbLoss hr _ _ => exact hI.transactionInv_haltWith (e := .arbLost) hr rfl (by decide) (by decide) _
  case hang hr => exact hI.transactionInv_haltWith (e := .timeout) hr rfl (by decide) (by decide) _

/-- SEQ halts at the slot it is at, or goes on past it. -/
theorem SeqShape.cmdPtr_eq {s u : State} (h : SeqShape s u) :
    (u.cmdPtr = s.cmdPtr ∧ u.seqRun = false) ∨ u.cmdPtr = s.cmdPtr + 1#6 := by
  cases h
  case write =>
    rw [transmit_eq_popByte]
    split
    · exact .inl ⟨rfl, rfl⟩
    · exact .inr (advance_cmdPtr _)
  case read => exact .inr (by rw [receive_eq_pushByte]; exact advance_cmdPtr _)
  case start => exact .inr (advance_cmdPtr _)
  case stop => exact .inr (advance_cmdPtr _)
  case arbLoss => exact .inl ⟨rfl, rfl⟩
  case hang => exact .inl ⟨rfl, rfl⟩

theorem SeqShape.txFifo_length_le {s u : State} (h : SeqShape s u) : u.txFifo.length ≤ s.txFifo.length := by
  cases h
  case write hq => simp [hq]
  all_goals simp [seqArbLoss, seqHang]

theorem SeqShape.rxFifo_length_le {s u : State} (h : SeqShape s u) (hle : s.rxFifo.length ≤ s.params.rxDepth) :
    u.rxFifo.length ≤ s.params.rxDepth := by
  cases h
  case read hq =>
    rw [receive_rxFifo, List.length_append]
    exact lt_of_le_of_ne hle hq
  all_goals simpa [seqArbLoss, seqHang] using hle

/-- CMDPTR never passes CMDLEN, and SEQ pushes into RXFIFO only where it has room. -/
theorem SeqShape.boundsInv {s u : State} (hI : Inv s) (h : SeqShape s u) : BoundsInv u := by
  obtain ⟨hwf, hptr, hlen, htx, hrx, hidx, htxLen, hrxIdx, hbuf, hresp, hhpc⟩ := hI.bounds
  have hside := h.sameHostSide
  obtain ⟨hbuf', htxIdx', hrxIdx'⟩ := h.sameBuffer
  have hlt := hI.cmdPtr_lt_of_seqRun h.seqRun
  have hptr' : u.cmdPtr ≤ s.cmdLen := by
    rcases h.cmdPtr_eq with ⟨he, -⟩ | he <;> rw [he]
    · exact hptr
    · rw [BitVec.le_def, toNat_succ_of_lt hlt]
      exact Nat.succ_le_of_lt hlt
  rw [BoundsInv, hside.params, hside.cmdLen, hside.txLen, hside.resp, hside.hpc, hside.prog, hbuf', htxIdx', hrxIdx']
  exact ⟨hwf, hptr', hlen, h.txFifo_length_le.trans htx, h.rxFifo_length_le hrx, hidx, htxLen, hrxIdx, hbuf, hresp, hhpc⟩

theorem SeqShape.inv {s u : State} (hI : Inv s) (h : SeqShape s u) : Inv u where
  bounds := h.boundsInv hI
  mode := h.sameHostSide.modeInv (hI.inProgress_of_seqRun h.seqRun) hI.mode
  transaction := fun _ => h.transactionInv hI

end Sys2Proof.Machine
end

section
/-!
IRQ keeps the invariant (spec/70_reset_and_hazards.md R291) and leaves no request (R310): its action is a service while SEQ runs,
and otherwise ends the transaction.
-/
namespace Sys2Proof.Machine

/-- The classifier goes on with the transaction in a service only, which finds no terminal event and so SEQ running. -/
theorem Inv.seqRun_of_service {s : State} (hI : Inv s) (hi : irqLine s = true)
    (hu : (takeInterrupt s).tstate = .inProgress) : s.seqRun = true := by
  have hb := hI.inProgress_of_irqLine hi
  refine hI.seqRun_of_noTerminal hb ?_
  rw [terminalPending, ← hI.armedPending_eq hb]
  obtain ⟨c, -, h⟩ | ⟨-, h⟩ | ⟨hc, -⟩ := takeInterrupt_cases s
  · rw [h] at hu
    exact absurd (.inl hu) (abortState_ended c)
  · rw [h] at hu
    exact nomatch hu
  · exact (classify_service_iff _).1 hc

/-- The service clears the pending bits: no other event is pending while SEQ runs. -/
theorem Inv.service_intPend_eq_zero {s : State} (hI : Inv s) (hr : s.seqRun = true) : (service s.intPend s).intPend = 0#6 := by
  have hclear : ∀ p : BitVec 6, p &&& terminalEvents = 0#6 → p &&& ~~~(p &&& 0x03#6) = 0#6 := by decide
  rw [service_intPend]
  exact hclear _ (hI.noTerminal_of_seqRun hr)

/-! What a service leaves. -/

/-- Bytes a service on the snapshot p pushes. -/
def serviceCount (p : BitVec 6) (s : State) : Nat := if p.getLsbD 0 = true then feedCount s else 0

theorem serviceCount_le (p : BitVec 6) (s : State) : serviceCount p s ≤ feedCount s := by
  unfold serviceCount
  split
  · exact le_rfl
  · exact Nat.zero_le _

theorem service_txFifo_length (p : BitVec 6) (s : State) :
    (service p s).txFifo.length = s.txFifo.length + serviceCount p s := by
  obtain ⟨hfifo, -, -⟩ := afterDrain_txSide p s
  rw [service_txFifo, serviceCount]
  split
  · rw [feedResult_fst, List.length_append, length_streamBytes, feedCount_afterDrain, hfifo]
  · rfl

theorem service_txIdx_toNat (p : BitVec 6) {s : State} (hle : s.txIdx ≤ s.txLen) :
    (service p s).txIdx.toNat = s.txIdx.toNat + serviceCount p s := by
  obtain ⟨-, hidx, hlen⟩ := afterDrain_txSide p s
  rw [service_txIdx, serviceCount]
  split
  · rw [feedResult_snd_toNat (by rw [hidx, hlen]; exact hle), feedCount_afterDrain, hidx]
  · rfl

/-- The drain moves bytes from RXFIFO to BUF, and their count to RXIDX. -/
theorem service_received (p : BitVec 6) {s : State} (h : s.rxIdx.toNat + s.rxFifo.length ≤ 31) :
    (service p s).rxIdx.toNat + (service p s).rxFifo.length = s.rxIdx.toNat + s.rxFifo.length := by
  rw [service_rxIdx, service_rxFifo, afterDrain]
  split
  · exact drain_rxIdx_toNat h
  · rfl

theorem service_rxFifo_length_le (p : BitVec 6) (s : State) : (service p s).rxFifo.length ≤ s.rxFifo.length := by
  rw [service_rxFifo, afterDrain]
  split
  · exact Nat.zero_le _
  · exact le_rfl

theorem service_bufWf (p : BitVec 6) {s : State} (h : Memory.wf s.buf = true) : Memory.wf (service p s).buf = true := by
  rw [service_buf, afterDrain]
  split
  · exact bufWf_drainLoop _ _ _ h
  · exact h

/-- A service leaves nothing to serve: a FIFO that holds SEQ had its event pending, and the depths are 1 or more (R168). -/
theorem Inv.service_refilled {s : State} (hI : Inv s) (hb : s.tstate = .inProgress) :
    ¬ ((service s.intPend s).txFifo = [] ∧ (service s.intPend s).txIdx < s.txLen) ∧
    (service s.intPend s).rxFifo.length ≠ s.params.rxDepth := by
  obtain ⟨⟨htxDepth, hrxDepth⟩, -, -, -, -, hle, -⟩ := hI.bounds
  obtain ⟨-, -, -, ⟨htxe, hrxf⟩⟩ := hI.transaction hb
  constructor
  · rintro ⟨hempty, hleft⟩
    have hlen := service_txFifo_length s.intPend s
    rw [hempty, List.length_nil] at hlen
    rw [BitVec.lt_def, service_txIdx_toNat _ hle] at hleft
    have hp : Pending .txe s := htxe ⟨List.eq_nil_of_length_eq_zero (by omega), BitVec.lt_def.2 (by omega)⟩
    have hbit : s.intPend.getLsbD 0 = true := getLsbD_of_pending hp
    rw [serviceCount, if_pos hbit, feedCount] at hlen hleft
    omega
  · intro hfull
    have hle := service_rxFifo_length_le s.intPend s
    obtain ⟨-, -, -, -, hbound, -⟩ := hI.bounds
    have hp : Pending .rxf s := hrxf (by omega)
    rw [service_rxFifo_eq_nil (getLsbD_of_pending hp), List.length_nil] at hfull
    omega

/-- A service moves FIFOs and indices together and clears what is pending. -/
theorem Inv.transactionInv_service {s : State} (hI : Inv s) (hr : s.seqRun = true) :
    TransactionInv (service s.intPend s) := by
  have hb := hI.inProgress_of_seqRun hr
  obtain ⟨hbuilt, ⟨-, hreceived, hbus⟩, -, -⟩ := hI.transaction hb
  have hlt := hI.cmdPtr_lt_of_seqRun hr
  obtain ⟨-, -, -, -, -, hle, -⟩ := hI.bounds
  obtain ⟨htxServed, hrxServed⟩ := hI.service_refilled hb
  have hclear := hI.service_intPend_eq_zero hr
  have hnone := not_pending_of_intPend_eq_zero hclear
  have hreq := (service_sameHostSide s.intPend s).sameRequest
  constructor
  case built => exact hreq.builtInv hbuilt
  case progress =>
    refine ⟨?_, ?_, ?_⟩
    · rw [if_neg (hnone _), service_txIdx_toNat _ hle, service_txFifo_length, hI.txIdx_eq hr, writesDone, writesDone,
        hreq.slotsOf_eq, service_cmdPtr]
      omega
    · rw [service_received _ ((hI.received_le hb).trans (by decide)), hreceived, readsDone, readsDone, hreq.slotsOf_eq,
        service_cmdPtr]
    · rw [service_busOwn, service_cmdPtr, service_cmdLen, hbus]
  case events =>
    rw [EventInv, service_seqRun, service_cmdPtr, service_cmdLen, terminalPending, hclear]
    refine ⟨fun _ => ⟨rfl, hlt⟩, fun h => absurd hr (by simp [h]), ?_, fun h => absurd h (hnone _)⟩
    exact iff_of_false (hnone _) fun hend => BitVec.lt_irrefl _ (hend ▸ hlt)
  case refill =>
    rw [RefillInv, service_txLen, service_params]
    exact ⟨fun h => absurd h htxServed, fun h => absurd h hrxServed⟩

/-- The bounds of the elements that the classifier writes. -/
structure InterruptBounds (s u : State) : Prop where
  cmdPtr : u.cmdPtr ≤ s.cmdLen
  txFifo : u.txFifo.length ≤ s.params.txDepth
  rxFifo : u.rxFifo.length ≤ s.params.rxDepth
  txIdx  : u.txIdx ≤ s.txLen
  rxIdx  : u.rxIdx.toNat ≤ 26
  buf    : Memory.wf u.buf = true

theorem Inv.interruptBounds {s : State} (hI : Inv s) (hb : s.tstate = .inProgress) :
    InterruptBounds s (takeInterrupt s) := by
  obtain ⟨-, hptr, -, htx, hrx, hidx, -, hrxIdx, hbuf, -⟩ := hI.bounds
  have hreceived := hI.received_le hb
  obtain ⟨c, -, h⟩ | ⟨-, h⟩ | ⟨-, h⟩ := takeInterrupt_cases s <;> rw [h]
  · exact ⟨Nat.zero_le _, Nat.zero_le _, Nat.zero_le _, by rwa [abort_txIdx], by rwa [abort_rxIdx], bufWf_afterAbort c s hbuf⟩
  · refine ⟨hptr, htx, Nat.zero_le _, hidx, ?_, bufWf_drainLoop _ _ _ hbuf⟩
    rw [complete_rxIdx, drain_rxIdx_toNat (hreceived.trans (by decide))]
    exact hreceived
  · have hcount := serviceCount_le (armedPending s) s
    have hidx' : s.txIdx.toNat ≤ s.txLen.toNat := hidx
    unfold feedCount at hcount
    constructor
    case cmdPtr => rwa [service_cmdPtr]
    case txFifo => rw [service_txFifo_length]; omega
    case rxFifo => exact (service_rxFifo_length_le _ s).trans hrx
    case txIdx => rw [BitVec.le_def, service_txIdx_toNat _ hidx]; omega
    case rxIdx =>
      have hsum := service_received (armedPending s) (hreceived.trans (by decide))
      omega
    case buf => exact service_bufWf _ hbuf

theorem Inv.boundsInv_takeInterrupt {s : State} (hI : Inv s) (hb : s.tstate = .inProgress) :
    BoundsInv (takeInterrupt s) := by
  obtain ⟨hwf, -, hlen, -, -, -, htxLen, -, -, hresp, hhpc⟩ := hI.bounds
  obtain ⟨hptr, htx, hrx, hidx, hrxIdx, hbuf⟩ := hI.interruptBounds hb
  have hreq := takeInterrupt_sameRequest s
  have hrun := takeInterrupt_sameRun s
  have hsame := takeInterrupt_sameResponse s
  rw [BoundsInv, hreq.cmdLen, hreq.txLen, hrun.params, hrun.prog, hsame.hpc, hsame.resp]
  exact ⟨hwf, hptr, hlen, htx, hrx, hidx, htxLen, hrxIdx, hbuf, hresp, hhpc⟩

/-- A terminal step leaves the block ready, and HWAIT and HPC as they were. -/
theorem Inv.modeInv_takeInterrupt {s : State} (hI : Inv s) (hi : irqLine s = true) : ModeInv (takeInterrupt s) := by
  have hb := hI.inProgress_of_irqLine hi
  by_cases hu : (takeInterrupt s).tstate = .inProgress
  · rw [hI.takeInterrupt_of_seqRun (hI.seqRun_of_service hi hu)]
    exact (service_sameHostSide s.intPend s).modeInv hb hI.mode
  · obtain ⟨hended, ⟨hsig, hrun, hena, hpend, htx, hrx, hbus⟩, hhpc, -⟩ := (StepShape.irq hi).terminal_ready hI hb hu
    obtain ⟨-, -, -, -, -, hwait⟩ := hI.mode
    rw [modeInv_iff_of_not_inProgress hu, takeInterrupt_hwait, hhpc, (takeInterrupt_sameRun s).prog]
    exact ⟨⟨hena, hpend, hrun, htx, hrx, hbus⟩, fun hw => ⟨hsig, hwait hw⟩, fun _ => hended⟩

/-- The classifier keeps the invariant. -/
theorem Inv.takeInterrupt {s : State} (hI : Inv s) (hi : irqLine s = true) : Inv (takeInterrupt s) where
  bounds := hI.boundsInv_takeInterrupt (hI.inProgress_of_irqLine hi)
  mode := hI.modeInv_takeInterrupt hi
  transaction := fun hu => by
    have hr := hI.seqRun_of_service hi hu
    rw [hI.takeInterrupt_of_seqRun hr]
    exact hI.transactionInv_service hr

/-! The request. -/

/-- A service clears what is pending, and a terminal step does too. -/
theorem Inv.irqLine_takeInterrupt {s : State} (hI : Inv s) (hi : irqLine s = true) :
    irqLine (Machine.takeInterrupt s) = false := by
  by_cases hu : (Machine.takeInterrupt s).tstate = .inProgress
  · have hr := hI.seqRun_of_service hi hu
    rw [irqLine, armedPending, hI.takeInterrupt_of_seqRun hr, hI.service_intPend_eq_zero hr, BitVec.zero_and]
    rfl
  · obtain ⟨-, hready, -⟩ := (StepShape.irq hi).terminal_ready hI (hI.inProgress_of_irqLine hi) hu
    exact hready.irqLine

/-- Settles O36: the classifier serves every event of its snapshot, which is all that is pending. -/
theorem classifierServesEveryPendingEvent : Obligations.ClassifierServesEveryPendingEvent := by
  unfold Obligations.ClassifierServesEveryPendingEvent
  intro s hI hi
  exact hI.irqLine_takeInterrupt hi

end Sys2Proof.Machine
end

section
/-!
HOST keeps the invariant (spec/70_reset_and_hazards.md R291): it arms a transaction, or leaves the transaction side of the
block.
-/
namespace Sys2Proof.Machine

/-- HOST arms a transaction, or leaves the transaction side of the block. -/
theorem HostShape.armed_or_same {s u : State} (h : HostShape s u) :
    (s.tstate ≠ .inProgress ∧ ∃ k dev reg len ck, validLen k len = true ∧ ArmedBy k dev reg len ck s u) ∨
    (SameTransaction s u ∧ u.busOwn = s.busOwn) := by
  cases h
  case armBlocking k dev reg len ck hi hb hv => exact .inl ⟨hb, k, dev, reg, len, ck, hv, (armedBy_arm dev reg ck s hv).blocked⟩
  case armGoingOn dev reg len ck hi hb hv =>
    exact .inl ⟨hb, .write, dev, reg, len, ck, hv, (armedBy_arm dev reg ck s hv).finish _ _⟩
  all_goals exact .inr ⟨by constructor <;> rfl, rfl⟩

/-- What holds of a transaction in progress is about the transaction side alone. -/
theorem SameTransaction.transactionInv {s u : State} (h : SameTransaction s u) (hbus : u.busOwn = s.busOwn)
    (hpar : u.params = s.params) (ht : TransactionInv s) : TransactionInv u := by
  obtain ⟨hbuilt, hprogress, hevents, hrefill⟩ := ht
  have hreq : SameRequest s u := ⟨h.cmd, h.cmdLen, h.opr, h.txLen⟩
  constructor
  case built => exact hreq.builtInv hbuilt
  case progress =>
    simpa only [ProgressInv, writesDone, readsDone, hreq.slotsOf_eq, hbus, h.cmdPtr, h.cmdLen, h.txIdx, h.rxIdx, h.txFifo,
      h.rxFifo, Pending, h.intPend] using hprogress
  case events =>
    simpa only [EventInv, terminalPending, hreq.slotsOf_eq, h.cmdPtr, h.cmdLen, h.seqRun, Pending, h.intPend] using hevents
  case refill =>
    simpa only [RefillInv, hpar, h.txIdx, h.txLen, h.txFifo, h.rxFifo, Pending, h.intPend] using hrefill

/-! The arm step. -/

section
variable {k : Kind} {dev : BitVec 7} {reg len : Byte} {ck : Bool} {s u : State}

/-- CMD holds the built sequence. -/
theorem ArmedBy.builtInv (h : ArmedBy k dev reg len ck s u) (hv : validLen k len = true) : BuiltInv u := by
  have hsize := buildSize_bounds hv
  have htxLen := buildTxLen_bounds hv
  rw [BuiltInv, h.opr]
  refine ⟨hv, List.ext_getElem? fun j => ?_, BitVec.eq_of_toNat_eq ?_, BitVec.eq_of_toNat_eq ?_⟩
  · rw [List.getElem?_take, h.cmdLen]
    split
    case isTrue hj => exact (Vector.getElem?_toList ..).trans (h.slots j hj)
    case isFalse hj => rw [List.getElem?_eq_none (by rw [buildWords_length ck hv]; omega)]
  · exact h.cmdLen.trans (Nat.mod_eq_of_lt (by omega)).symm
  · exact h.txLen.trans (Nat.mod_eq_of_lt (by omega)).symm

theorem ArmedBy.txFifo_length (h : ArmedBy k dev reg len ck s u) : u.txFifo.length = u.txIdx.toNat := by
  rw [h.txFifo, List.length_map, List.length_range, h.txIdx]

/-- A transaction starts at its first slot with nothing pending, and with TXFIFO prefilled. -/
theorem ArmedBy.transactionInv (h : ArmedBy k dev reg len ck s u) (hv : validLen k len = true) (hwf : s.params.wf)
    (hbus : s.busOwn = false) : TransactionInv u := by
  have hsize := buildSize_bounds hv
  have htxLen := buildTxLen_bounds hv
  have hnone := not_pending_of_intPend_eq_zero h.intPend
  have hpos : 0#6 < u.cmdLen := by
    rw [BitVec.lt_def, h.cmdLen]
    exact lt_of_lt_of_le (by decide) hsize.1
  obtain ⟨htxDepth, hrxDepth⟩ := hwf
  constructor
  case built => exact h.builtInv hv
  case progress =>
    refine ⟨?_, ?_, ?_⟩
    · rw [if_neg (hnone _), h.txFifo_length, writesDone, h.cmdPtr]
      rfl
    · rw [h.rxIdx, h.rxFifo, readsDone, h.cmdPtr]
      rfl
    · rw [h.busOwn, hbus, h.cmdPtr]
      simp
  case events =>
    rw [EventInv, h.seqRun, h.cmdPtr]
    refine ⟨fun _ => ⟨by simp [terminalPending, h.intPend], hpos⟩, nofun, ?_, fun hp => absurd hp (hnone _)⟩
    exact iff_of_false (hnone _) fun hend => BitVec.lt_irrefl _ (hend ▸ hpos)
  case refill =>
    constructor
    · rintro ⟨hempty, -⟩
      have hlen := h.txFifo_length
      rw [hempty, List.length_nil, h.txIdx] at hlen
      omega
    · intro hfull
      rw [h.rxFifo, List.length_nil, h.params] at hfull
      omega

end

/-! Every step of HOST. -/

/-- HOST answers, or blocks in a transaction. -/
theorem HostShape.answers_or_blocks {s u : State} (hI : Inv s) (h : HostShape s u) :
    s.hpc < s.prog.length ∧
    ((u.hpc = s.hpc + 1 ∧ u.hwait = false) ∨
      (u.hpc = s.hpc ∧ s.hwait = false ∧ u.hwait = true ∧ u.tstate = .inProgress)) := by
  obtain ⟨-, -, -, -, -, hwaits⟩ := hI.mode
  cases h
  case wake hw _ => exact ⟨hwaits hw, .inl ⟨rfl, rfl⟩⟩
  case armBlocking hi _ _ => exact ⟨hi.inProg, .inr ⟨rfl, hi.awake, rfl, rfl⟩⟩
  case armGoingOn hi _ _ => exact ⟨hi.inProg, .inl ⟨rfl, hi.awake⟩⟩
  case waitBlocks hi hb => exact ⟨hi.inProg, .inr ⟨rfl, hi.awake, rfl, hb⟩⟩
  case rejectBusy hi _ => exact ⟨hi.inProg, .inl ⟨rfl, hi.awake⟩⟩
  case rejectArgument hi _ => exact ⟨hi.inProg, .inl ⟨rfl, hi.awake⟩⟩
  case waitAnswers hi _ => exact ⟨hi.inProg, .inl ⟨rfl, hi.awake⟩⟩
  case stb hi _ => exact ⟨hi.inProg, .inl ⟨rfl, hi.awake⟩⟩
  case ldb hi _ => exact ⟨hi.inProg, .inl ⟨rfl, hi.awake⟩⟩

/-- Outside a transaction the bus is free. -/
theorem Inv.busOwn_eq_false {s : State} (hI : Inv s) (hb : s.tstate ≠ .inProgress) : s.busOwn = false := by
  obtain ⟨-, hidle, -⟩ := hI.mode
  obtain ⟨-, -, -, -, -, hbus⟩ := hidle hb
  exact hbus

/-- HOST writes BUF in STB only. -/
theorem HostShape.bufWf {s u : State} (h : HostShape s u) (hbuf : Memory.wf s.buf = true) : Memory.wf u.buf = true := by
  cases h
  case stb idx val _ _ => exact bufWf_set hbuf idx val
  all_goals exact hbuf

theorem HostShape.respWellFormed {s u : State} (h : HostShape s u) (hresp : respWellFormed s.resp = true) :
    Machine.respWellFormed u.resp = true := by
  obtain ⟨-, hsame⟩ | ⟨-, c, d, hanswer⟩ := h.response
  · rw [hsame]
    exact hresp
  · rw [hanswer, respWellFormed_respWord]

theorem HostShape.hpc_le {s u : State} (hI : Inv s) (h : HostShape s u) : u.hpc ≤ s.prog.length := by
  obtain ⟨hlt, ⟨hhpc, -⟩ | ⟨hhpc, -⟩⟩ := h.answers_or_blocks hI <;> rw [hhpc]
  · exact hlt
  · exact hlt.le

/-- An armed transaction starts within its bounds (R214). -/
theorem HostShape.boundsInv {s u : State} (hI : Inv s) (h : HostShape s u) : BoundsInv u := by
  obtain ⟨hwf, hptr, hlen, htx, hrx, hidx, htxLen, hrxIdx, hbuf, hresp, -⟩ := hI.bounds
  have hrun := h.sameRun
  have hhpc := h.hpc_le hI
  rw [BoundsInv, hrun.params, hrun.prog]
  obtain ⟨-, k, dev, reg, len, ck, hv, harmed⟩ | ⟨hsame, -⟩ := h.armed_or_same
  · have hsize := buildSize_bounds hv
    have hstream := buildTxLen_bounds hv
    have hfifo := harmed.txFifo_length
    have hcount := harmed.txIdx
    have htxLen := harmed.txLen
    refine ⟨hwf, ?_, ?_, ?_, ?_, ?_, ?_, ?_, h.bufWf hbuf, h.respWellFormed hresp, hhpc⟩
    · rw [harmed.cmdPtr]; exact Nat.zero_le _
    · rw [harmed.cmdLen]; exact hsize.2
    · omega
    · rw [harmed.rxFifo]; exact Nat.zero_le _
    · rw [BitVec.le_def]; omega
    · omega
    · rw [harmed.rxIdx]; decide
  · rw [hsame.cmdPtr, hsame.cmdLen, hsame.txFifo, hsame.rxFifo, hsame.txIdx, hsame.txLen, hsame.rxIdx]
    exact ⟨hwf, hptr, hlen, htx, hrx, hidx, htxLen, hrxIdx, h.bufWf hbuf, h.respWellFormed hresp, hhpc⟩

/-- After a step of HOST it waits only where it blocked. -/
theorem HostShape.waits {s u : State} (hI : Inv s) (h : HostShape s u) (hw : u.hwait = true) :
    u.tstate = .inProgress ∧ u.hpc < u.prog.length := by
  rw [h.sameRun.prog]
  obtain ⟨hlt, ⟨-, hawake⟩ | ⟨hhpc, -, -, hblocked⟩⟩ := h.answers_or_blocks hI
  · exact nomatch hw.symm.trans hawake
  · exact ⟨hblocked, hhpc ▸ hlt⟩

theorem HostShape.modeInv {s u : State} (hI : Inv s) (h : HostShape s u) : ModeInv u := by
  have hwaits := h.waits hI
  obtain ⟨-, k, dev, reg, len, ck, -, harmed⟩ | ⟨hsame, hbus⟩ := h.armed_or_same
  · exact (modeInv_iff_of_inProgress harmed.tstate).2 ⟨harmed.intEna, harmed.sig, fun hw => (hwaits hw).2⟩
  by_cases hb : s.tstate = .inProgress
  · obtain ⟨hena, hsig, -⟩ := (modeInv_iff_of_inProgress hb).1 hI.mode
    refine (modeInv_iff_of_inProgress (hsame.tstate.trans hb)).2 ⟨hsame.intEna.trans hena, ?_, fun hw => (hwaits hw).2⟩
    exact h.sig_eq_false hsig
  · obtain ⟨hidle, -, hsig⟩ := (modeInv_iff_of_not_inProgress hb).1 hI.mode
    have hub : u.tstate ≠ .inProgress := hsame.tstate ▸ hb
    have hgiven : u.sig = true → s.sig = true := fun hs =>
      eq_true_of_ne_false fun hno => nomatch hs.symm.trans (h.sig_eq_false hno)
    rw [modeInv_iff_of_not_inProgress hub, hsame.intEna, hsame.intPend, hsame.seqRun, hsame.txFifo, hsame.rxFifo, hbus,
      hsame.tstate]
    exact ⟨hidle, fun hw => absurd (hwaits hw).1 hub, fun hs => hsig (hgiven hs)⟩

/-- HOST keeps the invariant. -/
theorem HostShape.inv {s u : State} (hI : Inv s) (h : HostShape s u) : Inv u where
  bounds := h.boundsInv hI
  mode := h.modeInv hI
  transaction := fun hu => by
    obtain ⟨hb, k, dev, reg, len, ck, hv, harmed⟩ | ⟨hsame, hbus⟩ := h.armed_or_same
    · obtain ⟨hwf, -⟩ := hI.bounds
      exact harmed.transactionInv hv hwf (hI.busOwn_eq_false hb)
    · exact hsame.transactionInv hbus h.sameRun.params (hI.transaction (hsame.tstate.symm.trans hu))

end Sys2Proof.Machine
end

section
/-!
The invariant holds at reset and is kept by every step (spec/70_reset_and_hazards.md R290, R291).
-/
namespace Sys2Proof.Machine

theorem StepShape.inv {s u : State} (hI : Inv s) : StepShape s u → Inv u
  | .host h => h.inv hI
  | .irq hi => hI.takeInterrupt hi
  | .seq h => h.inv hI

/-- The invariant does not speak of the inputs. -/
theorem Inv.consumeInput {s : State} (hI : Inv s) : Inv (consumeInput s) where
  bounds := hI.bounds
  mode := hI.mode
  transaction := fun hb => { hI.transaction hb with }

/-- Settles O41: every agent's step keeps the invariant, and consuming the input does not touch it. -/
theorem stepKeepsTheInvariant : Obligations.StepKeepsTheInvariant := by
  unfold Obligations.StepKeepsTheInvariant
  intro s t hI hstep
  obtain ⟨u, hu, rfl⟩ := step_shape hstep
  exact (hu.inv hI).consumeInput

/-! Reset. -/

theorem resetWith_inv {p : Params} (hp : p.wf) (prog : List Word) (ins : List Input) :
    Inv { State.resetWith p prog with inputs := ins } where
  bounds := ⟨hp, Nat.zero_le _, Nat.zero_le _, Nat.zero_le _, Nat.zero_le _, Nat.zero_le _, Nat.zero_le _, Nat.zero_le _, rfl,
    (by decide : respWellFormed 0#32 = true), Nat.zero_le _⟩
  mode := (modeInv_iff_of_not_inProgress (nofun : TState.idle ≠ .inProgress)).2
    ⟨⟨rfl, rfl, rfl, rfl, rfl, rfl⟩, nofun, nofun⟩
  transaction := nofun

/-- Settles O40: at reset no transaction is in progress and every bounded element is 0 or empty. -/
theorem resetMeetsTheInvariant : Obligations.ResetMeetsTheInvariant := by
  unfold Obligations.ResetMeetsTheInvariant
  exact ⟨resetWith_inv ⟨le_rfl, le_rfl⟩ [] [], fun p prog ins hp => resetWith_inv hp prog ins⟩

/-- Settles O39: every element is read off the reset state. -/
theorem resetStateIsAsStated : Obligations.ResetStateIsAsStated := by
  unfold Obligations.ResetStateIsAsStated
  intro p prog
  have hirq : (0#6 &&& 0#6 != 0#6) = false := by decide
  have hvalid : respValid 0#32 = false := by decide
  exact ⟨rfl, rfl, rfl, rfl, hirq, rfl, rfl, rfl, rfl, rfl, rfl, rfl, rfl, rfl, hvalid, fun _ => rfl, rfl, rfl, rfl, rfl, rfl⟩

end Sys2Proof.Machine
end

section
/-!
Every step lowers the work left, and so every run stops (spec/70_reset_and_hazards.md R310). What counts in the work of a
transaction is that a slot weighs more than the two events that can be pending.
-/
namespace Sys2Proof.Machine

theorem transactionWork_of_not_inProgress {s : State} (hb : s.tstate ≠ .inProgress) : transactionWork s = 0 := if_neg hb

/-- The service events pending, at most two. -/
def serviceWork (s : State) : Nat := (if Pending .txe s then 1 else 0) + (if Pending .rxf s then 1 else 0)

theorem serviceWork_le (s : State) : serviceWork s ≤ 2 := by
  unfold serviceWork
  split <;> split <;> decide

theorem transactionWork_of_seqRun {s : State} (hb : s.tstate = .inProgress) (hr : s.seqRun = true) :
    transactionWork s = 3 * (s.cmdLen.toNat - s.cmdPtr.toNat) + 4 + serviceWork s := by
  rw [transactionWork, if_pos hb, if_pos hr, serviceWork]
  omega

theorem transactionWork_of_halted {s : State} (hb : s.tstate = .inProgress) (hr : s.seqRun = false) :
    transactionWork s = 1 + serviceWork s := by
  rw [transactionWork, if_pos hb, if_neg (by simp [hr]), serviceWork]
  omega

theorem transactionWork_pos {s : State} (hb : s.tstate = .inProgress) : 0 < transactionWork s := by
  rw [transactionWork, if_pos hb]
  omega

/-! SEQ and IRQ lower the work of the transaction. -/

/-- SEQ halts, which leaves the terminal step and at most two events, or completes a slot, which weighs more than the event it
may raise. -/
theorem SeqShape.transactionWork_lt {s u : State} (hI : Inv s) (h : SeqShape s u) :
    transactionWork u < transactionWork s := by
  have hr := h.seqRun
  have hb := hI.inProgress_of_seqRun hr
  have hside := h.sameHostSide
  have hub := hside.tstate.trans hb
  have hlt := hI.cmdPtr_lt_of_seqRun hr
  have hpending := serviceWork_le u
  rw [transactionWork_of_seqRun hb hr]
  cases hru : u.seqRun
  case false =>
    rw [transactionWork_of_halted hub hru]
    omega
  case true =>
    obtain ⟨-, hhalted⟩ | hptr := h.cmdPtr_eq
    · exact nomatch hru.symm.trans hhalted
    · have hlt' : s.cmdPtr.toNat < s.cmdLen.toNat := hlt
      rw [transactionWork_of_seqRun hub hru, hside.cmdLen, hptr, toNat_succ_of_lt hlt]
      omega

/-- Where no terminal event is pending, a request is for a service. -/
theorem serviceWork_pos {s : State} (hne : s.intPend ≠ 0#6) (hno : terminalPending s = 0#6) : 0 < serviceWork s := by
  have hservice : ∀ p : BitVec 6, p ≠ 0#6 → p &&& terminalEvents = 0#6 →
      p &&& eventMask .txe ≠ 0#6 ∨ p &&& eventMask .rxf ≠ 0#6 := by decide
  unfold serviceWork
  rcases hservice _ hne hno with hp | hp <;> rw [if_pos hp] <;> omega

/-- A service serves at least one event, and every other action ends the transaction. -/
theorem Inv.transactionWork_takeInterrupt_lt {s : State} (hI : Inv s) (hi : irqLine s = true) :
    transactionWork (Machine.takeInterrupt s) < transactionWork s := by
  have hb := hI.inProgress_of_irqLine hi
  by_cases hu : (Machine.takeInterrupt s).tstate = .inProgress
  · have hr := hI.seqRun_of_service hi hu
    have hclear := hI.service_intPend_eq_zero hr
    have hne : s.intPend ≠ 0#6 := by
      rw [← hI.armedPending_eq hb]
      exact (irqLine_iff s).1 hi
    have hpos := serviceWork_pos hne (hI.noTerminal_of_seqRun hr)
    have hserved : serviceWork (service s.intPend s) = 0 := by
      rw [serviceWork, if_neg (not_pending_of_intPend_eq_zero hclear _), if_neg (not_pending_of_intPend_eq_zero hclear _)]
    rw [hI.takeInterrupt_of_seqRun hr, transactionWork_of_seqRun hb hr,
      transactionWork_of_seqRun ((service_tstate ..).trans hb) ((service_seqRun ..).trans hr), hserved, service_cmdLen,
      service_cmdPtr]
    omega
  · rw [transactionWork_of_not_inProgress hu]
    exact transactionWork_pos hb

/-! HOST. -/

/-- A transaction just armed has at most 32 slots and no event pending. -/
theorem ArmedBy.transactionWork_le {k : Kind} {dev : BitVec 7} {reg len : Byte} {ck : Bool} {s u : State}
    (h : ArmedBy k dev reg len ck s u) (hv : validLen k len = true) : transactionWork u ≤ 100 := by
  have hsize := buildSize_bounds hv
  have hnone := not_pending_of_intPend_eq_zero h.intPend
  rw [transactionWork_of_seqRun h.tstate h.seqRun, h.cmdLen, serviceWork, if_neg (hnone _), if_neg (hnone _)]
  omega

theorem SameTransaction.transactionWork_eq {s u : State} (h : SameTransaction s u) :
    transactionWork u = transactionWork s := by
  simp only [transactionWork, Pending, h.tstate, h.seqRun, h.cmdLen, h.cmdPtr, h.intPend]

/-- What HOST can add to the work of transactions: the one it arms. -/
theorem HostShape.transactionWork_le {s u : State} (h : HostShape s u) : transactionWork u ≤ transactionWork s + 100 := by
  obtain ⟨-, k, dev, reg, len, ck, hv, harmed⟩ | ⟨hsame, -⟩ := h.armed_or_same
  · exact (harmed.transactionWork_le hv).trans (Nat.le_add_left _ _)
  · rw [hsame.transactionWork_eq]
    exact Nat.le_add_right _ _

/-- A step of HOST lowers HOST's own part of the work by more than the transaction it may arm adds. -/
theorem HostShape.work_lt {s u : State} (hI : Inv s) (h : HostShape s u) : work u < work s := by
  have harmed := h.transactionWork_le
  obtain ⟨hlt, ⟨hhpc, hawake⟩ | ⟨hhpc, hawake, hblocked, -⟩⟩ := h.answers_or_blocks hI
  · have hwake : (if u.hwait = true then 0 else 120) ≤ 120 := by split <;> omega
    unfold work
    rw [h.sameRun.prog, hhpc]
    omega
  · unfold work
    rw [h.sameRun.prog, hhpc, hawake, hblocked]
    simp only [if_true, Bool.false_eq_true, if_false]
    omega

/-- The other agents leave HOST's part. -/
theorem work_lt_of_transactionWork_lt {s u : State} (hprog : u.prog = s.prog) (hhpc : u.hpc = s.hpc)
    (hwait : u.hwait = s.hwait) (hlt : transactionWork u < transactionWork s) : work u < work s := by
  unfold work
  rw [hprog, hhpc, hwait]
  omega

/-! Every step and every run. -/

theorem StepShape.work_lt {s u : State} (hI : Inv s) : StepShape s u → work u < work s
  | .host h => h.work_lt hI
  | .irq hi => work_lt_of_transactionWork_lt (takeInterrupt_sameRun s).prog (takeInterrupt_sameResponse s).hpc
      (takeInterrupt_hwait s) (hI.transactionWork_takeInterrupt_lt hi)
  | .seq h => work_lt_of_transactionWork_lt h.sameHostSide.prog h.sameHostSide.hpc h.sameHostSide.hwait
      (h.transactionWork_lt hI)

/-- Settles O42: every agent's step lowers the work, and consuming the input leaves it. -/
theorem everyStepLowersTheWork : Obligations.EveryStepLowersTheWork := by
  unfold Obligations.EveryStepLowersTheWork
  intro s t hI hstep
  obtain ⟨u, hu, rfl⟩ := step_shape hstep
  have hlt : work u < work s := hu.work_lt hI
  exact hlt

/-- A machine whose every step keeps P and lowers a measure makes no run of more steps than the measure. -/
theorem run_ne_next_of_measure (M : Host.Core) {P : M.State → Prop} {μ : M.State → Nat}
    (hstep : ∀ s t, P s → M.step s = .next t → P t ∧ μ t < μ s) (n : Nat) {s : M.State} (hs : P s) (hn : μ s < n)
    (t : M.State) : M.run n s ≠ .next t := by
  induction n generalizing s with
  | zero => exact absurd hn (Nat.not_lt_zero _)
  | succ n ih =>
    rw [Host.Core.run]
    cases hm : M.step s with
    | next u =>
      obtain ⟨hu, hlt⟩ := hstep s u hs hm
      exact ih hu (by omega)
    | fault => nofun
    | refused => nofun

/-- Settles O43: the work is the measure, for the states that meet the invariant. -/
theorem everyRunStops : Obligations.EveryRunStops := by
  unfold Obligations.EveryRunStops
  intro s n hI hn
  refine run_ne_next_of_measure Sys2Proof.core (P := Inv) (μ := work) (fun r t hr ht => ?_) n hI hn
  exact ⟨stepKeepsTheInvariant r t hr ht, everyStepLowersTheWork r t hr ht⟩

end Sys2Proof.Machine
end

section
/-!
Where a run stops (spec/70_reset_and_hazards.md R312): exactly in the final states.
-/
namespace Sys2Proof.Machine

/-- No agent's step raises a fault. -/
theorem takeMove_ne_fault (m : Move) (s : State) (f : Fault) : takeMove m s ≠ .fault f := by
  have hexec : ∀ i r, exec i r ≠ .fault f := fun i r => by
    obtain ⟨t, ht⟩ := exec_next i r
    rw [ht]
    exact nofun
  cases m
  case host =>
    rw [takeMove, hostStep]
    split
    · nofun
    · split
      · nofun
      · rw [hostIssue]
        split
        · exact hexec _ _
        · nofun
  case seqNormal =>
    rw [takeMove, seqNormalStep]
    split
    · nofun
    · exact hexec _ _
  case irq => rw [takeMove]; nofun
  case seqArbLoss => rw [takeMove]; nofun
  case seqHang => rw [takeMove]; nofun

/-- A step faults exactly where no agent has one. -/
theorem step_eq_fault_iff (s : State) (f : Fault) :
    step s = .fault f ↔ (∀ m, moveEnabled s m = false) ∧ stopReason s = f := by
  rw [← nextMove_none_iff, step, agentStep]
  cases hm : nextMove s
  case none => simp
  case some m =>
    have hne := takeMove_ne_fault m s f
    cases hu : takeMove m s with
    | next u => simp [hu, consumed]
    | refused r => simp [hu, consumed]
    | fault g => simpa [hu, consumed] using hne

theorem isFinal_iff (s : State) : isFinal s = true ↔ s.hpc = s.prog.length ∧ s.hwait = false ∧ s.tstate ≠ .inProgress := by
  simp [isFinal, and_assoc]

/-! Final states. -/

/-- R312: in a final state no agent has a step. -/
theorem Inv.moveEnabled_of_isFinal {s : State} (hI : Inv s) (hf : isFinal s = true) (m : Move) : moveEnabled s m = false := by
  obtain ⟨hhpc, hawake, hb⟩ := (isFinal_iff s).1 hf
  refine eq_false_of_ne_true fun he => ?_
  obtain rfl := hI.host_of_moveEnabled hb he
  simp [moveEnabled, hostEnabled, hawake, hhpc] at he

/-- In a transaction SEQ runs, or its terminal event requests the classifier. -/
theorem Inv.moveEnabled_of_inProgress {s : State} (hI : Inv s) (hb : s.tstate = .inProgress) :
    moveEnabled s .seqHang = true ∨ moveEnabled s .irq = true := by
  by_cases hno : terminalPending s = 0#6
  · exact .inl (hI.seqRun_of_noTerminal hb hno)
  · have hne : s.intPend ≠ 0#6 := fun h => hno (by rw [terminalPending, h, BitVec.zero_and])
    right
    rw [moveEnabled, irqLine_iff, ← armedPending, hI.armedPending_eq hb]
    exact hne

/-- Where no agent has a step, HOST is not suspended: its signal would be given, or a transaction in progress. -/
theorem Inv.isFinal_of_no_move {s : State} (hI : Inv s) (hnone : ∀ m, moveEnabled s m = false) : isFinal s = true := by
  have hb : s.tstate ≠ .inProgress := fun hb => by
    rcases hI.moveEnabled_of_inProgress hb with he | he <;> exact nomatch he.symm.trans (hnone _)
  obtain ⟨-, -, -, -, -, -, -, -, -, -, hle⟩ := hI.bounds
  obtain ⟨-, hwait, -⟩ := (modeInv_iff_of_not_inProgress hb).1 hI.mode
  have hhost : hostEnabled s = false := hnone .host
  rw [isFinal_iff]
  cases hw : s.hwait
  case true => simp [hostEnabled, hw, (hwait hw).1] at hhost
  case false =>
    rw [hostEnabled, hw] at hhost
    have hge : s.prog.length ≤ s.hpc := by simpa using hhost
    exact ⟨le_antisymm hle hge, rfl, hb⟩

theorem Inv.no_move_iff {s : State} (hI : Inv s) : (∀ m, moveEnabled s m = false) ↔ isFinal s = true :=
  ⟨hI.isFinal_of_no_move, hI.moveEnabled_of_isFinal⟩

/-- Settles O44: the states without an enabled step are the final ones, and those answer endOfRun. -/
theorem onlyFinalStatesStop : Obligations.OnlyFinalStatesStop := by
  unfold Obligations.OnlyFinalStatesStop
  intro s hI
  rw [ne_eq, step_eq_fault_iff, step_eq_fault_iff, hI.no_move_iff, stopReason]
  by_cases hf : isFinal s = true <;> simp [hf]

end Sys2Proof.Machine
end

section
/-!
What one agent's move does in full: the byte LDB answers (spec/43_host_operations.md R229), the terminal state an abort
writes (spec/42_interrupt_classifier.md R186), and the instruction HOST or SEQ runs in a step (R210,
spec/41_slot_commands.md R150).
-/
namespace Sys2Proof.Machine

/-! The answer of LDB. -/

/-- Code 0 leaves VALID and DATA alone in the response word (spec/30_encoding.md R108). -/
theorem respWord_ok (d : Byte) : respWord .ok d = 0x80000000#32 ||| (d.setWidth 32 <<< 8) := by
  have hvalid : place 1#1 31 = 0x80000000#32 := by decide
  have hcode : place (codeNum .ok) 0 = 0#32 := by decide
  rw [respWord, hvalid, hcode, BitVec.or_zero, place]

theorem readBuf_of_bufGet {s : State} {a b : Byte} (h : bufGet s.buf a = some b) : readBuf s a = b := by
  rw [readBuf, h, Option.getD_some]

/-- Settles O18: the byte answered is the one the model reads at IDX. -/
theorem ldbAnswersTheByte : Obligations.LdbAnswersTheByte := by
  unfold Obligations.LdbAnswersTheByte
  intro s idx hb
  refine ⟨readBuf s idx, fun b => readBuf_of_bufGet, ?_⟩
  rw [exec_ldb_of_not_busy idx hb, finishHostOp_eq (respWord_ok _)]

/-! The abort. -/

/-- The release writes TRACE where the bus is held, and BUSOWN in any case. -/
theorem releaseBus_eq (c : AbortCause) (s : State) : releaseBus c s = { s with
    trace := if s.busOwn then s.trace ++ [.released c] else s.trace
    busOwn := false } := by
  cases h : s.busOwn <;> simp [releaseBus, emit, h]

/-- An abort for Timeout or ArbitrationLost forgets the destination of a read (U1, notes/assumptions/9.md); one for a
missing acknowledgment, or of a write, keeps every byte. -/
theorem bufGet_bufAfterAbort (c : AbortCause) (s : State) (a : Byte) :
    bufGet (bufAfterAbort c s) a =
      if c ≠ .nack ∧ s.opr.kind = .read ∧ a.toNat < s.opr.len.toNat then none else bufGet s.buf a := by
  cases hk : s.opr.kind
  case write => cases c <;> simp [bufAfterAbort, hk]
  case read => cases c <;> simp [bufAfterAbort, hk, bufGet_forget]

/-- Settles O30: the memory is `bufAfterAbort`, and the release is the one write that depends on the state. -/
theorem abortWritesTheTerminalState : Obligations.AbortWritesTheTerminalState := by
  unfold Obligations.AbortWritesTheTerminalState
  intro c s
  refine ⟨bufAfterAbort c s, ?_, bufGet_bufAfterAbort c s⟩
  rw [abort, releaseBus_eq, endTransaction]
  cases c <;> rfl

/-! The instruction a step runs. -/

section
variable {s : State} {w : Word} {i : Instr}

/-- HOST awake at a word of its program is enabled, and issues the operation the word decodes to (R210). -/
theorem host_runs_decoded (hawake : s.hwait = false) (hw : s.prog[s.hpc]? = some w) (hd : decodeHcmd w = .ok i) :
    moveEnabled s .host = true ∧ takeMove .host s = exec i s := by
  obtain ⟨hlt, -⟩ := List.getElem?_eq_some_iff.1 hw
  exact ⟨by simp [moveEnabled, hostEnabled, hawake, hlt], by simp [takeMove, hostStep, hawake, hw, hostIssue, hd]⟩

theorem currentSlot_of_decoded (hlt : s.cmdPtr < s.cmdLen) (hw : s.cmd[s.cmdPtr.toNat]? = some w)
    (hd : decodeSlot w = .ok i) : currentSlot s = some i := by
  simp [currentSlot, fetchSlot, hlt, hw, slotInstr, hd, Except.toOption]

/-- SEQ running at a slot that is not held is enabled, and executes the slot (R150). -/
theorem seq_runs_currentSlot (hrun : s.seqRun = true) (hc : currentSlot s = some i) (hh : slotHeld i s = false) :
    moveEnabled s .seqNormal = true ∧ takeMove .seqNormal s = exec i s :=
  ⟨by simp [moveEnabled, seqNormalEnabled, hrun, hc, hh], by simp [takeMove, seqNormalStep, hc]⟩

end

/-- Settles O37: the named agent is enabled, so the step is its own move, which runs the word it decodes. -/
theorem stepRunsTheDecodedInstruction : Obligations.StepRunsTheDecodedInstruction := by
  unfold Obligations.StepRunsTheDecodedInstruction
  refine ⟨fun s w i hawake hm hw hd => ?host, fun s w i hrun hm hlt hw hd hh => ?seq⟩
  case host =>
    obtain ⟨he, hexec⟩ := host_runs_decoded hawake hw hd
    rw [step_of_enabled he hm, hexec]
  case seq =>
    obtain ⟨he, hexec⟩ := seq_runs_currentSlot hrun (currentSlot_of_decoded hlt hw hd) hh
    rw [step_of_enabled he hm, hexec]

end Sys2Proof.Machine
end
